-- ==== Sys2Proof/Word.lean ====
section
/-! DEFINITION. The number types of BCDC (spec 00_scope.md, rules R6 and R8): bytes, register numbers,
command words and the INT32 values that commands carry. -/

namespace Sys2Proof

/-- R6: a byte is 8 bits, unsigned. -/
abbrev Byte := BitVec 8

/-- R6: a register number of the bound device is 8 bits, 0x00 to 0xFF. -/
abbrev RegNum := BitVec 8

/-- R6: a command word is 32 bits. -/
abbrev Word := BitVec 32

/-- R6: every integer operand and result is a 32-bit two's-complement value; `BitVec.toInt` reads it. -/
abbrev INT32 := BitVec 32

/-- R6: the exact integers an INT32 can hold. -/
abbrev INT32.holds (x : Int) : Prop := -2147483648 ≤ x ∧ x ≤ 2147483647

end Sys2Proof
end

