-- ==== Sys2Proof/Config.lean ====
section
/-! DEFINITION. What one BCDC is built with: the named parameters of spec 00_scope.md rule R7, the two
opaque parameter types, and the free values (draws and unconstrained oracle answers) the spec leaves open.
The parameter VALUES that reset holds are in Machine/RegisterTables.lean. -/

namespace Sys2Proof

/-- R7, D7: what `BCD.DEC` gives on a byte with a nibble above 9. -/
inductive NonDigitRule where
  /-- the source's formula, `b - 6*(b >> 4)` -/
  | formula
  /-- a drawn INT32 -/
  | any
deriving DecidableEq, Repr

/-- R7, C5: the two keys PCF8523 frequency field 0 may carry. -/
inductive F0Key where
  | hz32000
  | hz32768
deriving DecidableEq, Repr

/-- R171, R174: how a frequency pattern is put into the square-wave register. -/
inductive WriteMode where
  /-- the pattern is the whole byte; the old byte is not read -/
  | direct
  /-- the pattern replaces the bits of the field mask -/
  | rmw
deriving DecidableEq, Repr

/-- R171: one row of a frequency table. -/
structure FreqRow where
  key : INT32
  pattern : Byte
deriving DecidableEq, Repr

/-- R171: a frequency table is a triple of field mask, write mode and rows. -/
structure FreqTable where
  mask : Byte
  mode : WriteMode
  rows : List FreqRow
deriving DecidableEq, Repr

/-- R7, R26: the configuration. It is fixed before reset; no command reads it back or changes it.
The DS1307 mask and both write modes are no parameters: rules R174 and R175 fix them. -/
structure Params where
  /-- `BCD_DEC_NONDIGIT` -/
  bcdDecNonDigit : NonDigitRule
  /-- `DS1307_RUNNING_INVERT` -/
  ds1307RunningInvert : Bool
  /-- `PCF8523_F0_KEY` -/
  pcf8523F0Key : F0Key
  /-- the rows of `FREQ_TABLE_DS1307` -/
  ds1307Rows : List FreqRow
  /-- the field mask of `FREQ_TABLE_DS3231` -/
  ds3231Mask : Byte
  /-- the rows of `FREQ_TABLE_DS3231` -/
  ds3231Rows : List FreqRow
deriving DecidableEq, Repr

/-- R7, D10: the parameter type `DevAddr`. BCDC stores and forwards an address and never interprets it.
DESIGN CHOICE (log entry 1): addresses are told apart by a number of any size; no operation computes on it. -/
structure DevAddr where
  raw : Nat
deriving DecidableEq, Repr

/-- R7, D41: the parameter type `XErr`, carried unchanged in `E_XPORT`.
DESIGN CHOICE (log entry 1): failures are told apart by a number of any size; no operation computes on it. -/
structure XErr where
  raw : Nat
deriving DecidableEq, Repr

/-- R10 `draw byte`, R101: the byte that encoding a value outside 0 to 99 yields. A FREE VALUE
(log entry 2): the n-th draw of a run, of which nothing is known. -/
opaque Config.drawByte : Nat → Byte

/-- R100 `draw INT32`: what decoding a non-digit byte yields under `NonDigitRule.any`. A FREE VALUE
(log entry 2). -/
opaque Config.drawInt : Nat → INT32

/-- R55, R56: the unconstrained oracle's answer for a device register whose contents nobody has given.
A FREE VALUE (log entry 3). -/
opaque Config.oracleByte : Nat → Byte

end Sys2Proof
end

