-- ==== Sys2Proof/Syntax.lean ====
section
/-! DEFINITION. The commands of BCDC as syntax: the operand and result types (spec 30_encoding.md rule R85),
the command a host issues (R80), and one constructor of `Instr` per row of the opcode map (R88). -/

namespace Sys2Proof

/-- R2, R22: the three device variants. -/
inductive Variant where
  | ds1307
  | ds3231
  | pcf8523
deriving DecidableEq, Repr

/-- R81, R166: the named flag accessors, ids 0 to 4. -/
inductive Accessor where
  | running
  | lostPower
  | alarm
  | stop
  | batteryLow
deriving DecidableEq, Repr

/-- R31: the date/time record, eight INT32 fields. -/
structure DateTime where
  year : INT32
  month : INT32
  day : INT32
  weekday : INT32
  hour : INT32
  minute : INT32
  second : INT32
  millisecond : INT32
deriving DecidableEq, Repr

/-- R33: the alarm record; `none` is the spec's "unset". -/
structure AlarmFields where
  minute : Option INT32
  hour : Option INT32
  day : Option INT32
  weekday : Option INT32
deriving DecidableEq, Repr

/-- R34: whether a flag may be written. -/
inductive Access where
  | ro
  | rw
deriving DecidableEq, Repr

/-- R34: where a flag accessor lives and how it reads. -/
structure MapEntry where
  reg : RegNum
  mask : Byte
  access : Access
  invert : Bool
deriving DecidableEq, Repr

/-- R11, R85: a payload or a result, with its type. -/
inductive Value where
  | none
  | byte (b : Byte)
  | bytes (bs : List Byte)
  | int32 (v : INT32)
  | bool (v : Bool)
  | dateTime (dt : DateTime)
  | alarmFields (al : AlarmFields)
  | mapEntry (e : MapEntry)
  | devAddr (a : DevAddr)
deriving DecidableEq, Repr

/-- R80: a command is a command word and a payload. -/
structure Command where
  word : Word
  payload : Value
deriving DecidableEq, Repr

/-- R88: the 25 opcodes, by mnemonic. -/
inductive Opcode where
  | bcdDec | bcdEnc | flagTest | flagMerge | dtDec | dtEnc | almDec | almEnc | freqDec | freqEnc | map
  | bind | dtRead | dtWrite | flagGet | flagSet | freqGet | freqSet | memRead | memWrite | almRead | almWrite
  | reset | rflagGet | rflagSet
deriving DecidableEq, Repr

/-- R88: a decoded command, with the operands of its word (chip select, accessor, flag value, byte
immediate, mask) and of its payload. -/
inductive Instr where
  | bcdDec (b : Byte)
  | bcdEnc (v : INT32)
  | flagTest (b m : Byte)
  | flagMerge (b m : Byte) (v : Bool)
  | dtDec (bs : List Byte)
  | dtEnc (dt : DateTime)
  | almDec (chip : Variant) (bs : List Byte)
  | almEnc (chip : Variant) (al : AlarmFields)
  | freqDec (chip : Variant) (r : Byte)
  | freqEnc (chip : Variant) (r : Byte) (hz : INT32)
  | map (chip : Variant) (acc : Accessor)
  | bind (chip : Variant) (a : DevAddr)
  | dtRead
  | dtWrite (dt : DateTime)
  | flagGet (acc : Accessor)
  | flagSet (acc : Accessor) (v : Bool)
  | freqGet
  | freqSet (hz : INT32)
  | memRead (a : Byte)
  | memWrite (a : Byte) (bs : List Byte)
  | almRead
  | almWrite (al : AlarmFields)
  | reset
  | rflagGet (r : RegNum) (m : Byte)
  | rflagSet (r : RegNum) (m : Byte) (v : Bool)
deriving DecidableEq, Repr

end Sys2Proof
end

