-- ==== Sys2Proof/WellFormed.lean ====
section
/-! DEFINITION. Which terms of `Instr` are commands. Operand ranges are in the operand types; what is left to
check is the length of the two fixed-length byte payloads (spec 30_encoding.md rules R85 and R86). -/

namespace Sys2Proof

/-- R86: a `Bytes(7)` or `Bytes(4)` payload has exactly that length. A `MEM.WRITE` payload of any length is
well typed (R86): its bound is checked when it runs. -/
def Instr.wf : Instr → Bool
  | .dtDec bs => bs.length == 7
  | .almDec _ bs => bs.length == 4
  | .bcdDec _ | .bcdEnc _ | .flagTest _ _ | .flagMerge _ _ _ | .dtEnc _ | .almEnc _ _ | .freqDec _ _
  | .freqEnc _ _ _ | .map _ _ | .bind _ _ | .dtRead | .dtWrite _ | .flagGet _ | .flagSet _ _ | .freqGet
  | .freqSet _ | .memRead _ | .memWrite _ _ | .almRead | .almWrite _ | .reset | .rflagGet _ _
  | .rflagSet _ _ _ => true

end Sys2Proof
end

