-- ==== Sys2Proof/Decode.lean ====
section
/-! DEFINITION. Decoding a command (spec 30_encoding.md rules R81 to R89), total on every word and payload and
rejecting by name, and the encoder written from the same opcode map. -/

namespace Sys2Proof

/-- R81: the fields of the one command-word format. -/
structure Fields where
  opc : BitVec 8
  chip : BitVec 2
  acc : BitVec 3
  val : BitVec 1
  rsv : BitVec 2
  imm8 : Byte
  mask8 : Byte
deriving DecidableEq, Repr

/-- R82: why a command is illegal. Every one of them is `E_ILL` (the names and their order: DESIGN
CHOICE, log entry 15). -/
inductive DecodeError where
  /-- case 1, R89: OPC is not one of the 25 opcodes -/
  | reservedOpcode
  /-- case 2: RSV is not zero -/
  | reservedBits
  /-- case 3: a field the opcode does not use is not zero -/
  | unusedField
  /-- case 4: CHIP is `00` where a chip is needed -/
  | chipMissing
  /-- case 5: ACC is 5, 6 or 7 where an accessor is needed -/
  | reservedAccessor
  /-- case 6: the payload is not of the opcode's type -/
  | payloadType
deriving DecidableEq, Repr

/-- R88: which of the word's operand fields an opcode uses; the others must be zero. -/
structure Shape where
  chip : Bool := false
  acc : Bool := false
  val : Bool := false
  imm8 : Bool := false
  mask8 : Bool := false
deriving DecidableEq, Repr

/-- R81: the word's fields. -/
def Fields.ofWord (w : Word) : Fields where
  opc := w.extractLsb' 0 8
  chip := w.extractLsb' 8 2
  acc := w.extractLsb' 10 3
  val := w.extractLsb' 13 1
  rsv := w.extractLsb' 14 2
  imm8 := w.extractLsb' 16 8
  mask8 := w.extractLsb' 24 8

/-- R88: `OPC | CHIP<<8 | ACC<<10 | VAL<<13 | IMM8<<16 | MASK8<<24`, with RSV at 15:14 as R81 places it. -/
def Fields.toWord (f : Fields) : Word :=
  f.opc.setWidth 32 ||| f.chip.setWidth 32 <<< 8 ||| f.acc.setWidth 32 <<< 10 ||| f.val.setWidth 32 <<< 13
    ||| f.rsv.setWidth 32 <<< 14 ||| f.imm8.setWidth 32 <<< 16 ||| f.mask8.setWidth 32 <<< 24

/-- R22, R81: the 2-bit code of a variant. -/
def Variant.code : Variant → BitVec 2
  | .ds1307 => 0b01
  | .ds3231 => 0b10
  | .pcf8523 => 0b11

/-- R22, R81: the variant a CHIP code names; `00` names none. -/
def Variant.ofCode (c : BitVec 2) : Option Variant :=
  match c.toNat with
  | 1 => some .ds1307
  | 2 => some .ds3231
  | 3 => some .pcf8523
  | _ => none

/-- R81, R166: the accessor id. -/
def Accessor.code : Accessor → BitVec 3
  | .running => 0
  | .lostPower => 1
  | .alarm => 2
  | .stop => 3
  | .batteryLow => 4

/-- R84: the accessor an ACC code names; 5 to 7 name nothing. -/
def Accessor.ofCode (c : BitVec 3) : Option Accessor :=
  match c.toNat with
  | 0 => some .running
  | 1 => some .lostPower
  | 2 => some .alarm
  | 3 => some .stop
  | 4 => some .batteryLow
  | _ => none

/-- R88: the OPC value of each opcode. -/
def Opcode.code : Opcode → BitVec 8
  | .bcdDec => 0x01
  | .bcdEnc => 0x02
  | .flagTest => 0x03
  | .flagMerge => 0x04
  | .dtDec => 0x05
  | .dtEnc => 0x06
  | .almDec => 0x07
  | .almEnc => 0x08
  | .freqDec => 0x09
  | .freqEnc => 0x0A
  | .map => 0x0B
  | .bind => 0x10
  | .dtRead => 0x11
  | .dtWrite => 0x12
  | .flagGet => 0x13
  | .flagSet => 0x14
  | .freqGet => 0x15
  | .freqSet => 0x16
  | .memRead => 0x17
  | .memWrite => 0x18
  | .almRead => 0x19
  | .almWrite => 0x1A
  | .reset => 0x1B
  | .rflagGet => 0x1C
  | .rflagSet => 0x1D

/-- R88, R89: the opcode an OPC value names; every other value is reserved. -/
def Opcode.ofCode (c : BitVec 8) : Option Opcode :=
  match c.toNat with
  | 0x01 => some .bcdDec
  | 0x02 => some .bcdEnc
  | 0x03 => some .flagTest
  | 0x04 => some .flagMerge
  | 0x05 => some .dtDec
  | 0x06 => some .dtEnc
  | 0x07 => some .almDec
  | 0x08 => some .almEnc
  | 0x09 => some .freqDec
  | 0x0A => some .freqEnc
  | 0x0B => some .map
  | 0x10 => some .bind
  | 0x11 => some .dtRead
  | 0x12 => some .dtWrite
  | 0x13 => some .flagGet
  | 0x14 => some .flagSet
  | 0x15 => some .freqGet
  | 0x16 => some .freqSet
  | 0x17 => some .memRead
  | 0x18 => some .memWrite
  | 0x19 => some .almRead
  | 0x1A => some .almWrite
  | 0x1B => some .reset
  | 0x1C => some .rflagGet
  | 0x1D => some .rflagSet
  | _ => none

/-- R88: the field columns of each row. -/
def Opcode.shape : Opcode → Shape
  | .bcdDec => { imm8 := true }
  | .bcdEnc => {}
  | .flagTest => { imm8 := true, mask8 := true }
  | .flagMerge => { val := true, imm8 := true, mask8 := true }
  | .dtDec => {}
  | .dtEnc => {}
  | .almDec => { chip := true }
  | .almEnc => { chip := true }
  | .freqDec => { chip := true, imm8 := true }
  | .freqEnc => { chip := true, imm8 := true }
  | .map => { chip := true, acc := true }
  | .bind => { chip := true }
  | .dtRead => {}
  | .dtWrite => {}
  | .flagGet => { acc := true }
  | .flagSet => { acc := true, val := true }
  | .freqGet => {}
  | .freqSet => {}
  | .memRead => { imm8 := true }
  | .memWrite => { imm8 := true }
  | .almRead => {}
  | .almWrite => {}
  | .reset => {}
  | .rflagGet => { imm8 := true, mask8 := true }
  | .rflagSet => { val := true, imm8 := true, mask8 := true }

/-- R82 case 3: every field the row marks `0` is zero. -/
def Shape.unusedZero (sh : Shape) (f : Fields) : Bool :=
  (sh.chip || f.chip == 0) && (sh.acc || f.acc == 0) && (sh.val || f.val == 0) && (sh.imm8 || f.imm8 == 0)
    && (sh.mask8 || f.mask8 == 0)

/-- R87: VAL is the boolean `VAL = 1`. -/
def Fields.flag (f : Fields) : Bool := f.val == 1

/-- R82 case 4: read CHIP where the row marks it `sel`. -/
def Fields.withChip (f : Fields) (k : Variant → Except DecodeError Instr) : Except DecodeError Instr :=
  match Variant.ofCode f.chip with
  | some v => k v
  | none => .error .chipMissing

/-- R82 case 5: read ACC where the row marks it `acc`. -/
def Fields.withAcc (f : Fields) (k : Accessor → Except DecodeError Instr) : Except DecodeError Instr :=
  match Accessor.ofCode f.acc with
  | some a => k a
  | none => .error .reservedAccessor

/-- R82 case 6: the payload is `none`. -/
def Value.asNone (p : Value) (k : Except DecodeError Instr) : Except DecodeError Instr :=
  match p with
  | .none => k
  | _ => .error .payloadType

/-- R82 case 6: the payload is an INT32. -/
def Value.asInt32 (p : Value) (k : INT32 → Except DecodeError Instr) : Except DecodeError Instr :=
  match p with
  | .int32 v => k v
  | _ => .error .payloadType

/-- R82 case 6: the payload is a byte list. -/
def Value.asBytes (p : Value) (k : List Byte → Except DecodeError Instr) : Except DecodeError Instr :=
  match p with
  | .bytes bs => k bs
  | _ => .error .payloadType

/-- R82 case 6, R86: the payload is a byte list of exactly `n` bytes. -/
def Value.asBytesOf (p : Value) (n : Nat) (k : List Byte → Except DecodeError Instr) : Except DecodeError Instr :=
  p.asBytes fun bs => if bs.length = n then k bs else .error .payloadType

/-- R82 case 6: the payload is a `DateTime`. -/
def Value.asDateTime (p : Value) (k : DateTime → Except DecodeError Instr) : Except DecodeError Instr :=
  match p with
  | .dateTime dt => k dt
  | _ => .error .payloadType

/-- R82 case 6: the payload is an `AlarmFields`. -/
def Value.asAlarm (p : Value) (k : AlarmFields → Except DecodeError Instr) : Except DecodeError Instr :=
  match p with
  | .alarmFields al => k al
  | _ => .error .payloadType

/-- R82 case 6: the payload is a `DevAddr`. -/
def Value.asDevAddr (p : Value) (k : DevAddr → Except DecodeError Instr) : Except DecodeError Instr :=
  match p with
  | .devAddr a => k a
  | _ => .error .payloadType

/-- R88: the operands of each row, from the word's fields and the payload (cases 4 to 6 of R82). -/
def Opcode.operands (op : Opcode) (f : Fields) (p : Value) : Except DecodeError Instr :=
  match op with
  | .bcdDec => p.asNone (.ok (.bcdDec f.imm8))
  | .bcdEnc => p.asInt32 fun v => .ok (.bcdEnc v)
  | .flagTest => p.asNone (.ok (.flagTest f.imm8 f.mask8))
  | .flagMerge => p.asNone (.ok (.flagMerge f.imm8 f.mask8 f.flag))
  | .dtDec => p.asBytesOf 7 fun bs => .ok (.dtDec bs)
  | .dtEnc => p.asDateTime fun dt => .ok (.dtEnc dt)
  | .almDec => f.withChip fun v => p.asBytesOf 4 fun bs => .ok (.almDec v bs)
  | .almEnc => f.withChip fun v => p.asAlarm fun al => .ok (.almEnc v al)
  | .freqDec => f.withChip fun v => p.asNone (.ok (.freqDec v f.imm8))
  | .freqEnc => f.withChip fun v => p.asInt32 fun hz => .ok (.freqEnc v f.imm8 hz)
  | .map => f.withChip fun v => f.withAcc fun a => p.asNone (.ok (.map v a))
  | .bind => f.withChip fun v => p.asDevAddr fun a => .ok (.bind v a)
  | .dtRead => p.asNone (.ok .dtRead)
  | .dtWrite => p.asDateTime fun dt => .ok (.dtWrite dt)
  | .flagGet => f.withAcc fun a => p.asNone (.ok (.flagGet a))
  | .flagSet => f.withAcc fun a => p.asNone (.ok (.flagSet a f.flag))
  | .freqGet => p.asNone (.ok .freqGet)
  | .freqSet => p.asInt32 fun hz => .ok (.freqSet hz)
  | .memRead => p.asNone (.ok (.memRead f.imm8))
  | .memWrite => p.asBytes fun bs => .ok (.memWrite f.imm8 bs)
  | .almRead => p.asNone (.ok .almRead)
  | .almWrite => p.asAlarm fun al => .ok (.almWrite al)
  | .reset => p.asNone (.ok .reset)
  | .rflagGet => p.asNone (.ok (.rflagGet f.imm8 f.mask8))
  | .rflagSet => p.asNone (.ok (.rflagSet f.imm8 f.mask8 f.flag))

/-- R82: decode a command; every command decodes to exactly one instruction or is rejected by name. -/
def decode (c : Command) : Except DecodeError Instr :=
  let f := Fields.ofWord c.word
  match Opcode.ofCode f.opc with
  | none => .error .reservedOpcode
  | some op =>
    if f.rsv ≠ 0 then .error .reservedBits
    else if op.shape.unusedZero f then op.operands f c.payload
    else .error .unusedField

/-- R87: a flag value as the VAL bit. -/
def flagBit (v : Bool) : BitVec 1 := if v then 1 else 0

/-- R88: an opcode's word fields, every operand field zero. -/
def Opcode.fields (op : Opcode) : Fields where
  opc := op.code
  chip := 0
  acc := 0
  val := 0
  rsv := 0
  imm8 := 0
  mask8 := 0

/-- R88: the row an instruction belongs to. -/
def Instr.opcode : Instr → Opcode
  | .bcdDec _ => .bcdDec
  | .bcdEnc _ => .bcdEnc
  | .flagTest _ _ => .flagTest
  | .flagMerge _ _ _ => .flagMerge
  | .dtDec _ => .dtDec
  | .dtEnc _ => .dtEnc
  | .almDec _ _ => .almDec
  | .almEnc _ _ => .almEnc
  | .freqDec _ _ => .freqDec
  | .freqEnc _ _ _ => .freqEnc
  | .map _ _ => .map
  | .bind _ _ => .bind
  | .dtRead => .dtRead
  | .dtWrite _ => .dtWrite
  | .flagGet _ => .flagGet
  | .flagSet _ _ => .flagSet
  | .freqGet => .freqGet
  | .freqSet _ => .freqSet
  | .memRead _ => .memRead
  | .memWrite _ _ => .memWrite
  | .almRead => .almRead
  | .almWrite _ => .almWrite
  | .reset => .reset
  | .rflagGet _ _ => .rflagGet
  | .rflagSet _ _ _ => .rflagSet

/-- R88: the word fields of an instruction. -/
def Instr.fields (i : Instr) : Fields :=
  let f := i.opcode.fields
  match i with
  | .bcdDec b => { f with imm8 := b }
  | .bcdEnc _ => f
  | .flagTest b m => { f with imm8 := b, mask8 := m }
  | .flagMerge b m v => { f with imm8 := b, mask8 := m, val := flagBit v }
  | .dtDec _ => f
  | .dtEnc _ => f
  | .almDec chip _ => { f with chip := chip.code }
  | .almEnc chip _ => { f with chip := chip.code }
  | .freqDec chip r => { f with chip := chip.code, imm8 := r }
  | .freqEnc chip r _ => { f with chip := chip.code, imm8 := r }
  | .map chip acc => { f with chip := chip.code, acc := acc.code }
  | .bind chip _ => { f with chip := chip.code }
  | .dtRead => f
  | .dtWrite _ => f
  | .flagGet acc => { f with acc := acc.code }
  | .flagSet acc v => { f with acc := acc.code, val := flagBit v }
  | .freqGet => f
  | .freqSet _ => f
  | .memRead a => { f with imm8 := a }
  | .memWrite a _ => { f with imm8 := a }
  | .almRead => f
  | .almWrite _ => f
  | .reset => f
  | .rflagGet r m => { f with imm8 := r, mask8 := m }
  | .rflagSet r m v => { f with imm8 := r, mask8 := m, val := flagBit v }

/-- R88: the payload of an instruction. -/
def Instr.payload : Instr → Value
  | .bcdDec _ => .none
  | .bcdEnc v => .int32 v
  | .flagTest _ _ => .none
  | .flagMerge _ _ _ => .none
  | .dtDec bs => .bytes bs
  | .dtEnc dt => .dateTime dt
  | .almDec _ bs => .bytes bs
  | .almEnc _ al => .alarmFields al
  | .freqDec _ _ => .none
  | .freqEnc _ _ hz => .int32 hz
  | .map _ _ => .none
  | .bind _ a => .devAddr a
  | .dtRead => .none
  | .dtWrite dt => .dateTime dt
  | .flagGet _ => .none
  | .flagSet _ _ => .none
  | .freqGet => .none
  | .freqSet hz => .int32 hz
  | .memRead _ => .none
  | .memWrite _ bs => .bytes bs
  | .almRead => .none
  | .almWrite al => .alarmFields al
  | .reset => .none
  | .rflagGet _ _ => .none
  | .rflagSet _ _ _ => .none

/-- R80, R88: the command that stands for an instruction. -/
def encode (i : Instr) : Command := { word := i.fields.toWord, payload := i.payload }

/-- The payload of an opcode's type that is all zeros (numbers 0, byte lists of zeros, a `MEM.WRITE` list of
no bytes, an alarm with every field unset). The opcode table numbers the bits of the word only; this stands
for the operand words of zeros above them (DESIGN CHOICE, log entry 4). -/
def Opcode.zeroPayload : Opcode → Value
  | .bcdEnc | .freqEnc | .freqSet => .int32 0
  | .dtDec => .bytes (List.replicate 7 0)
  | .almDec => .bytes (List.replicate 4 0)
  | .memWrite => .bytes []
  | .dtEnc | .dtWrite => .dateTime ⟨0, 0, 0, 0, 0, 0, 0, 0⟩
  | .almEnc | .almWrite => .alarmFields ⟨none, none, none, none⟩
  | .bind => .devAddr ⟨0⟩
  | .bcdDec | .flagTest | .flagMerge | .freqDec | .map | .dtRead | .flagGet | .flagSet | .freqGet | .memRead
  | .almRead | .reset | .rflagGet | .rflagSet => .none

/-- The command whose word is the low `nbits` bits of `w`, with the zero payload of its opcode. -/
def tableCommand (nbits w : Nat) : Command :=
  let word : Word := BitVec.ofNat 32 (w % 2 ^ nbits)
  { word := word, payload := ((Opcode.ofCode (Fields.ofWord word).opc).map Opcode.zeroPayload).getD .none }

/-- The instruction the decoder reads from an opcode-table word. -/
def decodeTableWord (nbits w : Nat) : Option Instr :=
  match decode (tableCommand nbits w) with
  | .ok i => some i
  | .error _ => none

end Sys2Proof
end

