-- ==== Sys2Proof/Machine/Flags.lean ====
section
/-! DEFINITION. Flag composition (spec 42_flag_composition.md): the all-bits test and the masked set or clear
that every boolean accessor is built from. BCDC has no flags of its own (R28). -/

namespace Sys2Proof.Machine

/-- R140: do all bits of mask `m` stand set in `b`? -/
def flagTest (b m : Byte) : Bool := b &&& m == m

/-- R141: set (`v`) or clear exactly the bits of mask `m` in `b`. -/
def flagMerge (b m : Byte) (v : Bool) : Byte := if v then b ||| m else b &&& ~~~m

/-- R206: the reading of a flag byte through a dispatch entry, inverted where the entry says so. -/
def entryReading (e : MapEntry) (x : Byte) : Bool := if e.invert then !flagTest x e.mask else flagTest x e.mask

end Sys2Proof.Machine
end

