-- ==== Sys2Proof/Machine/Operands.lean ====
section
/-! DEFINITION. The packed-BCD codec (spec 40_bcd_codec.md) and the record codecs (41_record_codec.md) as
functions of their operands. Each takes the index `n` of the first free value it may use; a codec that may
draw k values uses the indices n to n+k-1, one per place, whether or not each is needed (log entry 2). -/

namespace Sys2Proof.Machine

/-- R58, R102: the tens digit. -/
def highNibble (b : Byte) : Nat := b.toNat / 16

/-- R58, R102: the units digit. -/
def lowNibble (b : Byte) : Nat := b.toNat % 16

/-- 00_scope.md glossary: both nibbles are 0 to 9. -/
def digitValid (b : Byte) : Bool := decide (highNibble b ≤ 9) && decide (lowNibble b ≤ 9)

/-- R100: `b - 6*(b >> 4)`, exact. -/
def bcdFormula (b : Byte) : Int := (b.toNat : Int) - 6 * (highNibble b : Int)

/-- R100: decode one packed-BCD byte. -/
def bcdDecode (p : Params) (n : Nat) (b : Byte) : INT32 :=
  if digitValid b then BitVec.ofInt 32 (bcdFormula b)
  else
    match p.bcdDecNonDigit with
    | .formula => BitVec.ofInt 32 (bcdFormula b)
    | .any => Config.drawInt n

/-- R101: encode an integer to one packed-BCD byte; outside 0 to 99 the byte is a draw. -/
def bcdEncode (n : Nat) (v : Int) : Byte :=
  if 0 ≤ v ∧ v ≤ 99 then BitVec.ofInt 8 (v + 6 * (v / 10)) else Config.drawByte n

/-- R120, D37: the year of a year byte, `DEC(b) + 2000` exactly. Under `NonDigitRule.any` the drawn integer
may lie so high that the sum is no INT32; the spec states no field value there and it is a free value
(DESIGN CHOICE, log entry 2). -/
def yearDecode (p : Params) (n : Nat) (b : Byte) : INT32 :=
  let y := (bcdDecode p n b).toInt + 2000
  if INT32.holds y then BitVec.ofInt 32 y else Config.drawInt (n + 1)

/-- R120: decode the date/time block, lowest register first. -/
def dateTimeDecode (p : Params) (n : Nat) (b0 b1 b2 b3 b4 b5 b6 : Byte) : DateTime where
  second := bcdDecode p n b0
  minute := bcdDecode p (n + 1) b1
  hour := bcdDecode p (n + 2) b2
  weekday := bcdDecode p (n + 3) b3
  day := bcdDecode p (n + 4) b4
  month := bcdDecode p (n + 5) b5
  year := yearDecode p (n + 6) b6
  millisecond := 0

/-- How many free values `dateTimeDecode` may use. -/
def dateTimeDecodeDraws : Nat := 8

/-- R121: encode a date/time, lowest register first; the millisecond is not read. -/
def dateTimeEncode (n : Nat) (dt : DateTime) : List Byte :=
  [bcdEncode n dt.second.toInt, bcdEncode (n + 1) dt.minute.toInt, bcdEncode (n + 2) dt.hour.toInt,
   bcdEncode (n + 3) dt.weekday.toInt, bcdEncode (n + 4) dt.day.toInt, bcdEncode (n + 5) dt.month.toInt,
   bcdEncode (n + 6) (dt.year.toInt - 2000)]

/-- How many free values `dateTimeEncode` may use. -/
def dateTimeEncodeDraws : Nat := 7

/-- R122: one alarm byte; a set bit 7 is "unset", whatever the other bits. -/
def alarmFieldDecode (p : Params) (n : Nat) (x : Byte) : Option INT32 :=
  if x &&& 0x80 ≠ 0 then none else some (bcdDecode p n x)

/-- R122: decode the alarm block, lowest register first. -/
def alarmDecode (p : Params) (n : Nat) (b0 b1 b2 b3 : Byte) : AlarmFields where
  minute := alarmFieldDecode p n b0
  hour := alarmFieldDecode p (n + 1) b1
  day := alarmFieldDecode p (n + 2) b2
  weekday := alarmFieldDecode p (n + 3) b3

/-- R123: one alarm field, with the byte that disables it. -/
def alarmFieldEncode (n : Nat) (disabled : Byte) (x : Option INT32) : Byte :=
  match x with
  | none => disabled
  | some v => bcdEncode n v.toInt

/-- R123: encode an alarm, lowest register first; a disabled weekday also has bit 6. -/
def alarmEncode (n : Nat) (al : AlarmFields) : List Byte :=
  [alarmFieldEncode n 0x80 al.minute, alarmFieldEncode (n + 1) 0x80 al.hour, alarmFieldEncode (n + 2) 0x80 al.day,
   alarmFieldEncode (n + 3) 0xC0 al.weekday]

/-- How many free values either alarm codec may use. -/
def alarmDraws : Nat := 4

end Sys2Proof.Machine
end

