-- ==== Sys2Proof/Machine/RegisterTables.lean ====
section
/-! DEFINITION. What differs between the three variants (spec 43_register_map.md): register numbers, the
accessor dispatch table, the capability matrix, the frequency tables, and the default parameters. -/

namespace Sys2Proof.Machine

/-- R161: the datetime base. -/
def dateTimeBase : Variant → RegNum
  | .ds1307 => 0x00
  | .ds3231 => 0x00
  | .pcf8523 => 0x03

/-- R211: the square-wave register. -/
def squareWaveReg : Variant → RegNum
  | .ds1307 => 0x07
  | .ds3231 => 0x0E
  | .pcf8523 => 0x0F

/-- R125: the first register of the PCF8523 alarm block. -/
def alarmBase : RegNum := 0x0A

/-- R160: PCF8523 control1. -/
def control1 : RegNum := 0x00

/-- R160: PCF8523 control3. -/
def control3 : RegNum := 0x02

/-- R160: the DS3231 status register. -/
def ds3231Status : RegNum := 0x0F

/-- R165, R222: the PCF8523 software-reset pattern. -/
def softwareResetPattern : Byte := 0x58

/-- R162: the register of NVRAM address 0. -/
def nvramBase : RegNum := 0x08

/-- R162: the NVRAM size in bytes. -/
def nvramSize : Nat := 56

/-- R215: the NVRAM bounds check for address `a` and length `n`. -/
def nvramFits (a : Byte) (n : Nat) : Bool := decide (a.toNat ≤ 55) && decide (a.toNat + n ≤ nvramSize)

/-- R168: `MEM.READ` and `MEM.WRITE` are supported. -/
def hasNvram : Variant → Bool
  | .ds1307 => true
  | .ds3231 => false
  | .pcf8523 => false

/-- R168: `ALM.READ`, `ALM.WRITE`, `ALM.DEC` and `ALM.ENC` are supported. -/
def hasAlarmTime : Variant → Bool
  | .ds1307 => false
  | .ds3231 => false
  | .pcf8523 => true

/-- R168: `RESET` is supported. -/
def hasSoftwareReset : Variant → Bool
  | .ds1307 => false
  | .ds3231 => false
  | .pcf8523 => true

/-- R167: the accessor dispatch table; `none` is an `E_CAP` cell. -/
def dispatch (p : Params) : Variant → Accessor → Option MapEntry
  | .ds1307, .running => some ⟨0x00, 0x80, .ro, p.ds1307RunningInvert⟩
  | .ds1307, .lostPower => none
  | .ds1307, .alarm => none
  | .ds1307, .stop => none
  | .ds1307, .batteryLow => none
  | .ds3231, .running => none
  | .ds3231, .lostPower => some ⟨0x0F, 0x80, .ro, false⟩
  | .ds3231, .alarm => some ⟨0x0F, 0x03, .rw, false⟩
  | .ds3231, .stop => some ⟨0x0E, 0x80, .rw, false⟩
  | .ds3231, .batteryLow => none
  | .pcf8523, .running => none
  | .pcf8523, .lostPower => some ⟨0x02, 0x10, .rw, false⟩
  | .pcf8523, .alarm => some ⟨0x01, 0x08, .rw, false⟩
  | .pcf8523, .stop => some ⟨0x00, 0x10, .rw, false⟩
  | .pcf8523, .batteryLow => some ⟨0x02, 0x04, .ro, false⟩

/-- R177: the Hz value of a `PCF8523_F0_KEY`. -/
def f0Hz : F0Key → INT32
  | .hz32000 => 32000
  | .hz32768 => 32768

/-- R177: the PCF8523 rows, in field order 0 to 7. -/
def pcf8523Rows (k : F0Key) : List FreqRow :=
  [⟨f0Hz k, 0x00⟩, ⟨16000, 0x08⟩, ⟨8000, 0x10⟩, ⟨4000, 0x18⟩, ⟨1000, 0x20⟩, ⟨32, 0x28⟩, ⟨1, 0x30⟩, ⟨0, 0x38⟩]

/-- R174 to R177: the frequency table of a variant. -/
def freqTable (p : Params) : Variant → FreqTable
  | .ds1307 => ⟨0xFF, .direct, p.ds1307Rows⟩
  | .ds3231 => ⟨p.ds3231Mask, .rmw, p.ds3231Rows⟩
  | .pcf8523 => ⟨0x38, .rmw, pcf8523Rows p.pcf8523F0Key⟩

/-- R172, R260: the keys of a table in row order. -/
def freqKeys (T : FreqTable) : List INT32 := T.rows.map FreqRow.key

/-- R172: the pattern of a key, by exact equality; of two rows with one key, which R171 excludes, the first
(DESIGN CHOICE, log entry 9). -/
def freqPattern (T : FreqTable) (hz : INT32) : Option Byte :=
  (T.rows.find? fun row => row.key == hz).map FreqRow.pattern

/-- R173: the key of a register byte, by its bits under the field mask; of two rows with one pattern, which R171
excludes, the first (DESIGN CHOICE, log entry 9). -/
def freqKey (T : FreqTable) (x : Byte) : Option INT32 :=
  (T.rows.find? fun row => row.pattern == x &&& T.mask).map FreqRow.key

/-- R174: the byte that puts pattern `pat` over a register that held `old`. -/
def freqPlace (T : FreqTable) (old pat : Byte) : Byte :=
  match T.mode with
  | .direct => pat
  | .rmw => (old &&& ~~~T.mask) ||| pat

/-- R175: the default DS1307 rows. Only key 4000 with pattern 0x11 is the source's; the other patterns are
the spec's general knowledge (log entry 5). -/
def defaultDs1307Rows : List FreqRow :=
  [⟨4000, 0x11⟩, ⟨0, 0x80⟩, ⟨-1, 0x00⟩, ⟨1, 0x10⟩, ⟨8192, 0x12⟩, ⟨32768, 0x13⟩]

/-- R176: the default DS3231 rows (patterns: the spec's general knowledge, log entry 5). -/
def defaultDs3231Rows : List FreqRow := [⟨0, 0x04⟩, ⟨1, 0x00⟩, ⟨1024, 0x08⟩, ⟨4096, 0x10⟩, ⟨8192, 0x18⟩]

/-- R7: every parameter at the spec's default (that reset holds them: DESIGN CHOICE, log entry 8). -/
def defaultParams : Params where
  bcdDecNonDigit := .formula
  ds1307RunningInvert := true
  pcf8523F0Key := .hz32000
  ds1307Rows := defaultDs1307Rows
  ds3231Mask := 0x1C
  ds3231Rows := defaultDs3231Rows

/-- R171: patterns stay within the mask, keys are distinct, and so are patterns. -/
def freqTableWf (T : FreqTable) : Bool :=
  T.rows.all (fun row => row.pattern &&& ~~~T.mask == 0) && decide (T.rows.map FreqRow.key).Nodup
    && decide (T.rows.map FreqRow.pattern).Nodup

/-- R171: every table the parameters give is a frequency table. -/
def paramsWf (p : Params) : Bool :=
  freqTableWf (freqTable p .ds1307) && freqTableWf (freqTable p .ds3231) && freqTableWf (freqTable p .pcf8523)

end Sys2Proof.Machine
end

