-- ==== Sys2Proof/Machine/State.lean ====
section
/-! DEFINITION. The state of BCDC and of what it is connected to (spec 10_state.md, 20_memory.md,
60_exceptions.md rule R260, 70_reset_and_hazards.md rules R290 and R306), as plain data; the reasons a step can
stop; the state after reset. -/

namespace Sys2Proof.Machine

/-- R24: the LIFE register. -/
inductive Life where
  | unbound
  | ready
deriving DecidableEq, Repr

/-- R260: the error statuses of a command, each with the information it carries. An error ends its command and
goes back to the host in the response; it is no stop of the machine (R265). -/
inductive Err where
  /-- 1 `E_VALUE`, with the table's keys -/
  | value (keys : List INT32)
  /-- 2 `E_RANGE` -/
  | range
  /-- 3 `E_CAP` -/
  | cap
  /-- 4 `E_XPORT`, with the transport's information -/
  | xport (e : XErr)
  /-- 5 `E_PATTERN`, with the byte read -/
  | pattern (x : Byte)
  /-- 6 `E_ILL` -/
  | ill
  /-- 7 `E_UNBOUND` -/
  | unbound
  /-- 8 `E_REBIND` -/
  | rebind
deriving DecidableEq, Repr

/-- R80: a response; the result is present only with the status `OK`. -/
inductive Response where
  | ok (result : Value)
  | error (e : Err)
deriving DecidableEq, Repr

/-- R52, R53, R306: one transaction on the transport, as a test observes it (R274). -/
inductive Transaction where
  /-- a completed read, with the bytes answered -/
  | read (addr : DevAddr) (reg : RegNum) (bytes : List Byte)
  /-- a failed read of `n` bytes -/
  | readFailed (addr : DevAddr) (reg : RegNum) (n : Nat) (e : XErr)
  /-- a completed write -/
  | write (addr : DevAddr) (reg : RegNum) (bytes : List Byte)
  /-- a failed write -/
  | writeFailed (addr : DevAddr) (reg : RegNum) (bytes : List Byte) (e : XErr)
deriving DecidableEq, Repr

/-- R54, R224, R305: how the transport answers one transaction. -/
inductive BusAnswer where
  /-- the transaction completes -/
  | ok
  /-- it fails; of a failed write, byte i reached the device when `landed` has `true` at i (R224: any part may;
  DEDUCED, log entry 14) -/
  | fail (e : XErr) (landed : List Bool)
  /-- the transport never answers -/
  | never
deriving DecidableEq, Repr

/-- R12, R62, R68: what the environment and the transport do at one transaction: the changes the environment
(the device itself, another bus master) has made to device registers since BCDC's last transaction, in order,
and the answer. -/
structure BusEvent where
  changes : List (RegNum × Byte)
  answer : BusAnswer
deriving DecidableEq, Repr

/-- R21, R290: what the host gives the block: a command, or its reset input. -/
inductive HostInput where
  | command (c : Command)
  | reset
deriving DecidableEq, Repr

/-- R50, R55, R56: the device register file, as (register, byte) pairs in canonical form: registers strictly
rising and below 256. A register that is not listed has contents nobody has given: reading it yields a free
value. No listed byte equals what an unlisted register reads as, since that is no byte at all. -/
abbrev Memory := List Host.Cell

/-- The machine: BCDC's own state (R20 to R30), the device register file it reaches, and the run so far and to
come (R306). -/
structure State where
  /-- R24 -/
  life : Life
  /-- R22: the CHIP register; `none` is the code `00`, NONE -/
  chip : Option Variant
  /-- R23: the DEVADDR register; `none` is unset -/
  devAddr : Option DevAddr
  /-- R26: the configuration -/
  params : Params
  /-- R30: the byte a read-modify-write command holds between its read and its write -/
  rmwLocal : Option Byte
  /-- R55: the device register file -/
  dev : Memory
  /-- R12, R55: what the environment and the transport will do at the coming transactions, next first; past its
  end every transaction completes and nothing else changes the device (the simulator oracle; log entry 3) -/
  bus : List BusEvent
  /-- R21: what the host will give the block, next first -/
  host : List HostInput
  /-- R306: the responses given, oldest first -/
  responses : List Response
  /-- R306: the transactions issued, oldest first -/
  trace : List Transaction
  /-- the model's own: how many free values have been set aside (log entry 2) -/
  draws : Nat
deriving DecidableEq, Repr

/-- The faults of the machine. -/
inductive Fault where
  /-- R305, I17: raised by a transaction the transport never answers; the command waits forever. Safe: the
  machine takes no further step (DEDUCED, log entry 10). -/
  | transportNeverAnswers
  /-- R50, R52, R53, R60: raised by a transaction of no bytes or of a register outside 0x00 to 0xFF. Safe: no
  command issues one (DEDUCED, log entry 10). -/
  | noSuchRegister
deriving DecidableEq, Repr

/-- The refusals of the machine. -/
inductive Refusal where
  /-- raised by `exec` for an instruction whose meaning is not written yet. Safe: the machine stops. No
  instruction is in this case. -/
  | notModelled (mnemonic : String)
deriving DecidableEq, Repr

/-- R35, R290: the machine right after reset. BCDC's own registers have the values of R35; the parameters have
the spec's defaults (R7); no device register's contents are given (R292); the host has given nothing yet. The parameters, the
empty record and the empty schedule are DESIGN CHOICES (log entries 8, 7 and 3). -/
def State.reset : State where
  life := .unbound
  chip := none
  devAddr := none
  params := defaultParams
  rmwLocal := none
  dev := []
  bus := []
  host := []
  responses := []
  trace := []
  draws := 0

end Sys2Proof.Machine
end

