-- ==== Sys2Proof/Machine/Ops.lean ====
section
/-! DEFINITION. The named operations every command is made of: the device register file, the bus, the updates
of the state, and commands as sequences of the spec's pseudocode primitives (00_scope.md rule R10: MemRead,
MemWrite, raise, return, draw). Ending a command with an error status is the one shared operation `Cmd.raise`;
BCDC has no trap entry and no trap return (60_exceptions.md rules R265 and R266). -/

namespace Sys2Proof.Machine

/-! ### The device register file -/

/-- R55: the contents of register `a`, if they are given. -/
def Memory.read : Memory → Nat → Option Byte
  | [], _ => none
  | (k, b) :: m, a => if k = a then some b else Memory.read m a

/-- R55: register `a` receives `b`. -/
def Memory.write : Memory → Nat → Byte → Memory
  | [], a, b => [(a, b)]
  | (k, c) :: m, a, b =>
    if a < k then (a, b) :: (k, c) :: m
    else if a = k then (a, b) :: m
    else (k, c) :: Memory.write m a b

/-- R53, R57: register `a + i` receives element i. -/
def Memory.writeBytes : Memory → Nat → List Byte → Memory
  | m, _, [] => m
  | m, a, b :: bs => Memory.writeBytes (Memory.write m a b) (a + 1) bs

/-- R224: of a failed write, register `a + i` receives element i where `landed` has `true` at i
(DEDUCED, log entry 14). -/
def Memory.writeLanded : Memory → Nat → List Byte → List Bool → Memory
  | m, _, [], _ => m
  | m, _, _ :: _, [] => m
  | m, a, b :: bs, l :: ls => Memory.writeLanded (if l then Memory.write m a b else m) (a + 1) bs ls

/-- R12, R62: the environment's changes, in order. -/
def Memory.change : Memory → List (RegNum × Byte) → Memory
  | m, [] => m
  | m, (r, b) :: cs => Memory.change (Memory.write m r.toNat b) cs

/-- The canonical form from register `lo` on. -/
def Memory.wfFrom : Nat → Memory → Bool
  | _, [] => true
  | lo, (k, _) :: m => decide (lo ≤ k) && decide (k < 256) && Memory.wfFrom (k + 1) m

/-- R50: the canonical form: registers strictly rising, all below 256. -/
def Memory.wf (m : Memory) : Bool := Memory.wfFrom 0 m

/-! ### Updates of the state -/

/-- R55: the byte register `a` answers with: its contents, or, where nobody has given them, the unconstrained
oracle's free byte number `n`. -/
def State.oracle (s : State) (n : Nat) (a : Nat) : Byte := (s.dev.read a).getD (Config.oracleByte n)

/-- R55: nothing interferes and the transaction completes. -/
def quietEvent : BusEvent := { changes := [], answer := .ok }

/-- What happens at the next transaction; past the end of the schedule, the simulator oracle (log entry 3). -/
def State.nextEvent (s : State) : BusEvent := s.bus.headD quietEvent

/-- R12, R68: the environment's changes before the next transaction take effect and its event is used up. -/
def State.takeEvent (s : State) : State := { s with bus := s.bus.tail, dev := s.dev.change s.nextEvent.changes }

/-- Set aside `k` free values. -/
def State.reserve (s : State) (k : Nat) : State := { s with draws := s.draws + k }

/-- R306: add a transaction to the trace. -/
def State.record (s : State) (t : Transaction) : State := { s with trace := s.trace ++ [t] }

/-- The device register file becomes `m`. -/
def State.setDev (s : State) (m : Memory) : State := { s with dev := m }

/-- R30: hold the byte read, or nothing. -/
def State.hold (s : State) (x : Option Byte) : State := { s with rmwLocal := x }

/-- R200: CHIP, DEVADDR and LIFE are committed together. -/
def State.commit (s : State) (v : Variant) (a : DevAddr) : State :=
  { s with chip := some v, devAddr := some a, life := .ready }

/-- R80, R30: a command ends with its response; its local value is gone (DEDUCED, log entry 11). -/
def State.respond (s : State) (r : Response) : State :=
  { s with responses := s.responses ++ [r], rmwLocal := none }

/-- R290: the block's reset input. It issues no transaction and leaves the parameters and the device as they
are; the list of responses and the trace are the host's record of the run (R306), not the block's
(DESIGN CHOICE, log entry 7). -/
def State.blockReset (s : State) : State :=
  { s with life := .unbound, chip := none, devAddr := none, rmwLocal := none }

/-- R21: the host's next input, if it has given one, and the state once the block has taken it. -/
def State.takeInput (s : State) : Option (HostInput × State) :=
  match s.host with
  | [] => none
  | h :: rest => some (h, { s with host := rest })

/-- R82, R89: a command that does not decode ends with `E_ILL` and has no other effect. -/
def State.rejectIllegal (s : State) : State := s.respond (.error .ill)

/-! ### Status codes -/

/-- R260: the 4-bit code of an error status. -/
def Err.code : Err → BitVec 4
  | .value _ => 1
  | .range => 2
  | .cap => 3
  | .xport _ => 4
  | .pattern _ => 5
  | .ill => 6
  | .unbound => 7
  | .rebind => 8

/-- R260: the 4-bit status code of a response. -/
def Response.status : Response → BitVec 4
  | .ok _ => 0
  | .error e => e.code

/-! ### Commands as sequences of primitives -/

/-- How a piece of a command ends. -/
inductive CmdOut (α : Type) where
  /-- it goes on with a value -/
  | done (a : α) (s : State)
  /-- the command ends with an error status -/
  | raised (e : Err) (s : State)
  /-- the machine stops -/
  | stopped (f : Fault)

/-- A piece of a command. -/
abbrev Cmd (α : Type) := State → CmdOut α

/-- R10 `return v`. -/
def Cmd.ret {α : Type} (a : α) : Cmd α := fun s => .done a s

/-- R10 `raise E_X(info)`: the command ends; what was done stays done. -/
def Cmd.raise {α : Type} (e : Err) : Cmd α := fun s => .raised e s

/-- One piece and then the next. -/
def Cmd.bind {α β : Type} (c : Cmd α) (k : α → Cmd β) : Cmd β := fun s =>
  match c s with
  | .done a t => k a t
  | .raised e t => .raised e t
  | .stopped f => .stopped f

/-- R80, R265: run a whole command and give the host its response, as one step (DEDUCED, log entry 11). -/
def Cmd.run (c : Cmd Value) (s : State) : Host.Outcome State Fault Refusal :=
  match c s with
  | .done v t => .next (t.respond (.ok v))
  | .raised e t => .next (t.respond (.error e))
  | .stopped f => .fault f

/-- R10 `draw`: set aside `k` free values; gives the index of the first. -/
def drawIndex (k : Nat) : Cmd Nat := fun s => .done s.draws (s.reserve k)

/-- R26: the configuration. -/
def readParams : Cmd Params := fun s => .done s.params s

/-- R52 `MemRead(reg, n)`: one read transaction of `n` registers from `reg` of the device at `a`. -/
def memRead (a : DevAddr) (reg : RegNum) (n : Nat) : Cmd (Fin n → Byte) := fun s =>
  if 1 ≤ n ∧ reg.toNat + n ≤ 256 then
    match s.nextEvent.answer with
    | .ok =>
      let t := s.takeEvent
      let bytes : Fin n → Byte := fun i => t.oracle (s.draws + i) (reg.toNat + i)
      .done bytes ((t.reserve n).record (.read a reg (List.ofFn bytes)))
    | .fail e _ => .raised (.xport e) (s.takeEvent.record (.readFailed a reg n e))
    | .never => .stopped .transportNeverAnswers
  else .stopped .noSuchRegister

/-- R53 `MemWrite(reg, n, bytes)`: one write transaction. A failed write may have landed in part (R224). -/
def memWrite (a : DevAddr) (reg : RegNum) (bytes : List Byte) : Cmd Unit := fun s =>
  if 1 ≤ bytes.length ∧ reg.toNat + bytes.length ≤ 256 then
    match s.nextEvent.answer with
    | .ok =>
      let t := s.takeEvent
      .done () ((t.setDev (t.dev.writeBytes reg.toNat bytes)).record (.write a reg bytes))
    | .fail e landed =>
      let t := s.takeEvent
      .raised (.xport e) ((t.setDev (t.dev.writeLanded reg.toNat bytes landed)).record (.writeFailed a reg bytes e))
    | .never => .stopped .transportNeverAnswers
  else .stopped .noSuchRegister

/-- R52: `MemRead(reg, 1)`, the source's `readByte`. -/
def readByte (a : DevAddr) (reg : RegNum) : Cmd Byte := (memRead a reg 1).bind fun x => Cmd.ret (x 0)

/-- R30: hold a byte for the write of a read-modify-write, or let it go. -/
def holdByte (x : Option Byte) : Cmd Unit := fun s => .done () (s.hold x)

/-- R30, R143: write the held byte, changed by `f`, back to the register. -/
def writeHeld (a : DevAddr) (reg : RegNum) (f : Byte → Byte) : Cmd Unit := fun s =>
  memWrite a reg (s.rmwLocal.toList.map f) s

/-- R62, R143: a read-modify-write of one register, two transactions. -/
def rmwByte (a : DevAddr) (reg : RegNum) (f : Byte → Byte) : Cmd Unit :=
  (readByte a reg).bind fun x =>
  (holdByte (some x)).bind fun _ =>
  (writeHeld a reg f).bind fun _ =>
  holdByte none

/-- R22, R23: the device BCDC is bound to. -/
structure Binding where
  variant : Variant
  addr : DevAddr
deriving DecidableEq, Repr

/-- R22 to R24: the binding of a `READY` block. Whenever LIFE is `READY`, CHIP and DEVADDR hold values; states
where they do not are reached by no run, and count as having no binding (DESIGN CHOICE, log entry 9). -/
def State.binding (s : State) : Option Binding :=
  match s.life, s.chip, s.devAddr with
  | .ready, some v, some a => some ⟨v, a⟩
  | .ready, some _, none => none
  | .ready, none, _ => none
  | .unbound, _, _ => none

/-- R261 check 3 (`precheck` of 44_bus_operations.md): the binding, or `E_UNBOUND`. -/
def requireBinding : Cmd Binding := fun s =>
  match s.binding with
  | some b => .done b s
  | none => .raised .unbound s

/-- R261 check 2: `BIND` while LIFE is `READY` ends with `E_REBIND`. -/
def requireUnbound : Cmd Unit := fun s =>
  match s.life with
  | .ready => .raised .rebind s
  | .unbound => .done () s

/-- R261 check 4: a missing capability ends the command with `E_CAP`. -/
def requireCap (supported : Bool) : Cmd Unit := if supported then Cmd.ret () else Cmd.raise .cap

/-- R215, R261 check 5: outside the NVRAM the command ends with `E_RANGE`. -/
def requireRange (fits : Bool) : Cmd Unit := if fits then Cmd.ret () else Cmd.raise .range

/-- R167, R205: resolve an accessor on a variant, or `E_CAP`. -/
def resolve (v : Variant) (acc : Accessor) : Cmd MapEntry :=
  readParams.bind fun p =>
  match dispatch p v acc with
  | some e => Cmd.ret e
  | none => Cmd.raise .cap

/-- R170: a read-only accessor cannot be written. -/
def requireWritable (e : MapEntry) : Cmd Unit :=
  match e.access with
  | .rw => Cmd.ret ()
  | .ro => Cmd.raise .cap

/-- R172: the pattern of a frequency key, or `E_VALUE` with the table's keys. -/
def requireFreq (T : FreqTable) (hz : INT32) : Cmd Byte :=
  match freqPattern T hz with
  | some pat => Cmd.ret pat
  | none => Cmd.raise (.value (freqKeys T))

/-- R173, R178: the key of a square-wave register byte, or `E_PATTERN` with the byte. -/
def decodeFreq (T : FreqTable) (x : Byte) : Cmd INT32 :=
  match freqKey T x with
  | some k => Cmd.ret k
  | none => Cmd.raise (.pattern x)

/-- R120: decode a date/time block. -/
def decodeDateTime (b0 b1 b2 b3 b4 b5 b6 : Byte) : Cmd DateTime :=
  readParams.bind fun p =>
  (drawIndex dateTimeDecodeDraws).bind fun n =>
  Cmd.ret (dateTimeDecode p n b0 b1 b2 b3 b4 b5 b6)

/-- R121: encode a date/time block. -/
def encodeDateTime (dt : DateTime) : Cmd (List Byte) :=
  (drawIndex dateTimeEncodeDraws).bind fun n => Cmd.ret (dateTimeEncode n dt)

/-- R122: decode an alarm block. -/
def decodeAlarm (b0 b1 b2 b3 : Byte) : Cmd AlarmFields :=
  readParams.bind fun p =>
  (drawIndex alarmDraws).bind fun n =>
  Cmd.ret (alarmDecode p n b0 b1 b2 b3)

/-- R123: encode an alarm block. -/
def encodeAlarm (al : AlarmFields) : Cmd (List Byte) :=
  (drawIndex alarmDraws).bind fun n => Cmd.ret (alarmEncode n al)

/-- R201: the PCF8523 construction-time initialisation of the device at `a`: control3 bits 7:5 are cleared. -/
def initControl3 (a : DevAddr) : Cmd Unit := rmwByte a control3 fun x => flagMerge x 0xE0 false

/-- R200: the construction side effect of a variant. -/
def constructionInit (v : Variant) (a : DevAddr) : Cmd Unit :=
  match v with
  | .ds1307 => Cmd.ret ()
  | .ds3231 => Cmd.ret ()
  | .pcf8523 => initControl3 a

/-- R200: the binding registers are written, on success only. -/
def commitBinding (v : Variant) (a : DevAddr) : Cmd Unit := fun s => .done () (s.commit v a)

/-- R203: what a variant does before the date/time write. -/
def dateTimePreStep (b : Binding) : Cmd Unit :=
  match b.variant with
  | .ds1307 => Cmd.ret ()
  | .ds3231 => rmwByte b.addr ds3231Status fun x => flagMerge x 0x80 false
  | .pcf8523 => rmwByte b.addr control3 fun x => flagMerge x 0x10 false

/-- R212: put a frequency pattern into the square-wave register, in the table's write mode. -/
def writeFreq (b : Binding) (T : FreqTable) (pat : Byte) : Cmd Unit :=
  match T.mode with
  | .direct => memWrite b.addr (squareWaveReg b.variant) [pat]
  | .rmw => rmwByte b.addr (squareWaveReg b.variant) fun x => freqPlace T x pat

end Sys2Proof.Machine
end

