-- ==== Sys2Proof/Machine/BcdCodec.lean ====
section
/-! DEFINITION. The meanings of `BCD.DEC` and `BCD.ENC` (spec 40_bcd_codec.md). Both are pure: no transaction,
no binding. -/

namespace Sys2Proof.Machine

/-- `BCD.DEC b` (R100). -/
def execBcdDec (b : Byte) (s : State) : Host.Outcome State Fault Refusal :=
  Cmd.run (readParams.bind fun p => (drawIndex 1).bind fun n => Cmd.ret (.int32 (bcdDecode p n b))) s

/-- `BCD.ENC v` (R101). -/
def execBcdEnc (v : INT32) (s : State) : Host.Outcome State Fault Refusal :=
  Cmd.run ((drawIndex 1).bind fun n => Cmd.ret (.byte (bcdEncode n v.toInt))) s

end Sys2Proof.Machine
end

