-- ==== Sys2Proof/Machine/BusOperations.lean ====
section
/-! DEFINITION. The meanings of the bus commands of the bound variant (spec 44_bus_operations.md). Each runs
the checks of 60_exceptions.md rule R261 in order before its first transaction. -/

namespace Sys2Proof.Machine

/-- `BIND chip, devaddr` (R200): the initialisation runs at the payload's address; LIFE, CHIP and DEVADDR are
written only once it has succeeded. -/
def execBind (chip : Variant) (a : DevAddr) (s : State) : Host.Outcome State Fault Refusal :=
  Cmd.run
    (requireUnbound.bind fun _ =>
      (constructionInit chip a).bind fun _ =>
      (commitBinding chip a).bind fun _ =>
      Cmd.ret .none) s

/-- `DT.READ` (R202): one read of 7 registers. -/
def execDtRead (s : State) : Host.Outcome State Fault Refusal :=
  Cmd.run
    (requireBinding.bind fun b =>
      (memRead b.addr (dateTimeBase b.variant) 7).bind fun x =>
      (decodeDateTime (x 0) (x 1) (x 2) (x 3) (x 4) (x 5) (x 6)).bind fun dt =>
      Cmd.ret (.dateTime dt)) s

/-- `DT.WRITE dt` (R204): the date/time is encoded, the variant's pre-step runs, one write of 7 registers. -/
def execDtWrite (dt : DateTime) (s : State) : Host.Outcome State Fault Refusal :=
  Cmd.run
    (requireBinding.bind fun b =>
      (encodeDateTime dt).bind fun bs =>
      (dateTimePreStep b).bind fun _ =>
      (memWrite b.addr (dateTimeBase b.variant) bs).bind fun _ =>
      Cmd.ret .none) s

/-- `FLAG.GET acc` (R206). -/
def execFlagGet (acc : Accessor) (s : State) : Host.Outcome State Fault Refusal :=
  Cmd.run
    (requireBinding.bind fun b =>
      (resolve b.variant acc).bind fun e =>
      (readByte b.addr e.reg).bind fun x =>
      Cmd.ret (.bool (entryReading e x))) s

/-- `FLAG.SET acc, v` (R208). -/
def execFlagSet (acc : Accessor) (v : Bool) (s : State) : Host.Outcome State Fault Refusal :=
  Cmd.run
    (requireBinding.bind fun b =>
      (resolve b.variant acc).bind fun e =>
      (requireWritable e).bind fun _ =>
      (rmwByte b.addr e.reg fun x => flagMerge x e.mask v).bind fun _ =>
      Cmd.ret .none) s

/-- `FREQ.GET` (R210). -/
def execFreqGet (s : State) : Host.Outcome State Fault Refusal :=
  Cmd.run
    (requireBinding.bind fun b =>
      readParams.bind fun p =>
      (readByte b.addr (squareWaveReg b.variant)).bind fun x =>
      (decodeFreq (freqTable p b.variant) x).bind fun k =>
      Cmd.ret (.int32 k)) s

/-- `FREQ.SET hz` (R212). -/
def execFreqSet (hz : INT32) (s : State) : Host.Outcome State Fault Refusal :=
  Cmd.run
    (requireBinding.bind fun b =>
      readParams.bind fun p =>
      (requireFreq (freqTable p b.variant) hz).bind fun pat =>
      (writeFreq b (freqTable p b.variant) pat).bind fun _ =>
      Cmd.ret .none) s

/-- `MEM.READ a` (R214). -/
def execMemRead (a : Byte) (s : State) : Host.Outcome State Fault Refusal :=
  Cmd.run
    (requireBinding.bind fun b =>
      (requireCap (hasNvram b.variant)).bind fun _ =>
      (requireRange (nvramFits a 1)).bind fun _ =>
      (readByte b.addr (nvramBase + a)).bind fun x =>
      Cmd.ret (.byte x)) s

/-- `MEM.WRITE a, [bytes]` (R216): an empty list issues no transaction. -/
def execMemWrite (a : Byte) (bs : List Byte) (s : State) : Host.Outcome State Fault Refusal :=
  Cmd.run
    (requireBinding.bind fun b =>
      (requireCap (hasNvram b.variant)).bind fun _ =>
      (requireRange (nvramFits a bs.length)).bind fun _ =>
      (if bs.isEmpty then Cmd.ret () else memWrite b.addr (nvramBase + a) bs).bind fun _ =>
      Cmd.ret .none) s

/-- `ALM.READ` (R218): one read of 4 registers. -/
def execAlmRead (s : State) : Host.Outcome State Fault Refusal :=
  Cmd.run
    (requireBinding.bind fun b =>
      (requireCap (hasAlarmTime b.variant)).bind fun _ =>
      (memRead b.addr alarmBase 4).bind fun x =>
      (decodeAlarm (x 0) (x 1) (x 2) (x 3)).bind fun al =>
      Cmd.ret (.alarmFields al)) s

/-- `ALM.WRITE al` (R220): one write of 4 registers. -/
def execAlmWrite (al : AlarmFields) (s : State) : Host.Outcome State Fault Refusal :=
  Cmd.run
    (requireBinding.bind fun b =>
      (requireCap (hasAlarmTime b.variant)).bind fun _ =>
      (encodeAlarm al).bind fun bs =>
      (memWrite b.addr alarmBase bs).bind fun _ =>
      Cmd.ret .none) s

/-- `RESET` (R222): the software-reset pattern is written whole to control1, then the construction-time
initialisation runs again. The binding does not change. -/
def execReset (s : State) : Host.Outcome State Fault Refusal :=
  Cmd.run
    (requireBinding.bind fun b =>
      (requireCap (hasSoftwareReset b.variant)).bind fun _ =>
      (memWrite b.addr control1 [softwareResetPattern]).bind fun _ =>
      (initControl3 b.addr).bind fun _ =>
      Cmd.ret .none) s

end Sys2Proof.Machine
end

