-- ==== Sys2Proof/Machine/FlagComposition.lean ====
section
/-! DEFINITION. The meanings of `FLAG.TEST`, `FLAG.MERGE`, `RFLAG.GET` and `RFLAG.SET`
(spec 42_flag_composition.md). -/

namespace Sys2Proof.Machine

/-- `FLAG.TEST b, m` (R140). -/
def execFlagTest (b m : Byte) (s : State) : Host.Outcome State Fault Refusal :=
  Cmd.run (Cmd.ret (.bool (flagTest b m))) s

/-- `FLAG.MERGE b, m, v` (R141). -/
def execFlagMerge (b m : Byte) (v : Bool) (s : State) : Host.Outcome State Fault Refusal :=
  Cmd.run (Cmd.ret (.byte (flagMerge b m v))) s

/-- `RFLAG.GET r, m` (R142). -/
def execRflagGet (r : RegNum) (m : Byte) (s : State) : Host.Outcome State Fault Refusal :=
  Cmd.run
    (requireBinding.bind fun b =>
      (readByte b.addr r).bind fun x =>
      Cmd.ret (.bool (flagTest x m))) s

/-- `RFLAG.SET r, m, v` (R143). -/
def execRflagSet (r : RegNum) (m : Byte) (v : Bool) (s : State) : Host.Outcome State Fault Refusal :=
  Cmd.run
    (requireBinding.bind fun b =>
      (rmwByte b.addr r fun x => flagMerge x m v).bind fun _ =>
      Cmd.ret .none) s

end Sys2Proof.Machine
end

