-- ==== Sys2Proof/Machine/RecordCodec.lean ====
section
/-! DEFINITION. The meanings of `DT.DEC`, `DT.ENC`, `ALM.DEC` and `ALM.ENC` (spec 41_record_codec.md). All are
pure; the alarm codecs take their variant from the command word and exist on the PCF8523 only (R168). -/

namespace Sys2Proof.Machine

/-- `DT.DEC [b0, …, b6]` (R120). A list of another length is no command (R86): `E_ILL` (DESIGN CHOICE, log
entry 12; nothing decodes to it). -/
def execDtDec (bs : List Byte) (s : State) : Host.Outcome State Fault Refusal :=
  Cmd.run
    (match bs with
    | [b0, b1, b2, b3, b4, b5, b6] =>
      (decodeDateTime b0 b1 b2 b3 b4 b5 b6).bind fun dt => Cmd.ret (.dateTime dt)
    | _ => Cmd.raise .ill) s

/-- `DT.ENC dt` (R121). -/
def execDtEnc (dt : DateTime) (s : State) : Host.Outcome State Fault Refusal :=
  Cmd.run ((encodeDateTime dt).bind fun bs => Cmd.ret (.bytes bs)) s

/-- `ALM.DEC chip, [b0, b1, b2, b3]` (R122). A list of another length is no command (R86): `E_ILL` (DESIGN
CHOICE, log entry 12; nothing decodes to it). -/
def execAlmDec (chip : Variant) (bs : List Byte) (s : State) : Host.Outcome State Fault Refusal :=
  Cmd.run
    (match bs with
    | [b0, b1, b2, b3] =>
      (requireCap (hasAlarmTime chip)).bind fun _ =>
      (decodeAlarm b0 b1 b2 b3).bind fun al =>
      Cmd.ret (.alarmFields al)
    | _ => Cmd.raise .ill) s

/-- `ALM.ENC chip, al` (R123). -/
def execAlmEnc (chip : Variant) (al : AlarmFields) (s : State) : Host.Outcome State Fault Refusal :=
  Cmd.run
    ((requireCap (hasAlarmTime chip)).bind fun _ =>
      (encodeAlarm al).bind fun bs =>
      Cmd.ret (.bytes bs)) s

end Sys2Proof.Machine
end

