-- ==== Sys2Proof/Machine/TableCommands.lean ====
section
/-! DEFINITION. The meanings of `FREQ.DEC`, `FREQ.ENC` and `MAP` (spec 43_register_map.md): the tables of a
variant named in the command word, with no transaction and no binding. -/

namespace Sys2Proof.Machine

/-- `FREQ.DEC chip, r` (R178). -/
def execFreqDec (chip : Variant) (r : Byte) (s : State) : Host.Outcome State Fault Refusal :=
  Cmd.run
    (readParams.bind fun p =>
      (decodeFreq (freqTable p chip) r).bind fun k =>
      Cmd.ret (.int32 k)) s

/-- `FREQ.ENC chip, r, hz` (R179). -/
def execFreqEnc (chip : Variant) (r : Byte) (hz : INT32) (s : State) : Host.Outcome State Fault Refusal :=
  Cmd.run
    (readParams.bind fun p =>
      (requireFreq (freqTable p chip) hz).bind fun pat =>
      Cmd.ret (.byte (freqPlace (freqTable p chip) r pat))) s

/-- `MAP chip, acc` (R180). -/
def execMap (chip : Variant) (acc : Accessor) (s : State) : Host.Outcome State Fault Refusal :=
  Cmd.run ((resolve chip acc).bind fun e => Cmd.ret (.mapEntry e)) s

end Sys2Proof.Machine
end

