-- ==== Sys2Proof/Machine/Dispatch.lean ====
section
/-! DEFINITION. One arm per instruction: its meaning (spec 30_encoding.md rule R88). -/

namespace Sys2Proof.Machine

def exec (i : Instr) (s : State) : Host.Outcome State Fault Refusal :=
  match i with
  -- 40_bcd_codec.md
  | .bcdDec b => Sys2Proof.Machine.execBcdDec b s
  | .bcdEnc v => Sys2Proof.Machine.execBcdEnc v s
  -- 42_flag_composition.md, pure
  | .flagTest b m => Sys2Proof.Machine.execFlagTest b m s
  | .flagMerge b m v => Sys2Proof.Machine.execFlagMerge b m v s
  -- 41_record_codec.md
  | .dtDec bs => Sys2Proof.Machine.execDtDec bs s
  | .dtEnc dt => Sys2Proof.Machine.execDtEnc dt s
  | .almDec chip bs => Sys2Proof.Machine.execAlmDec chip bs s
  | .almEnc chip al => Sys2Proof.Machine.execAlmEnc chip al s
  -- 43_register_map.md
  | .freqDec chip r => Sys2Proof.Machine.execFreqDec chip r s
  | .freqEnc chip r hz => Sys2Proof.Machine.execFreqEnc chip r hz s
  | .map chip acc => Sys2Proof.Machine.execMap chip acc s
  -- 44_bus_operations.md
  | .bind chip a => Sys2Proof.Machine.execBind chip a s
  | .dtRead => Sys2Proof.Machine.execDtRead s
  | .dtWrite dt => Sys2Proof.Machine.execDtWrite dt s
  | .flagGet acc => Sys2Proof.Machine.execFlagGet acc s
  | .flagSet acc v => Sys2Proof.Machine.execFlagSet acc v s
  | .freqGet => Sys2Proof.Machine.execFreqGet s
  | .freqSet hz => Sys2Proof.Machine.execFreqSet hz s
  | .memRead a => Sys2Proof.Machine.execMemRead a s
  | .memWrite a bs => Sys2Proof.Machine.execMemWrite a bs s
  | .almRead => Sys2Proof.Machine.execAlmRead s
  | .almWrite al => Sys2Proof.Machine.execAlmWrite al s
  | .reset => Sys2Proof.Machine.execReset s
  -- 42_flag_composition.md, bus
  | .rflagGet r m => Sys2Proof.Machine.execRflagGet r m s
  | .rflagSet r m v => Sys2Proof.Machine.execRflagSet r m v s

end Sys2Proof.Machine
end

