-- ==== Sys2Proof/Machine/Step.lean ====
section
/-! DEFINITION. One step of the block: take the host's next input and carry it out to its response (spec
10_state.md rule R21, 30_encoding.md rule R80, 70_reset_and_hazards.md rules R290, R291 and R306). -/

namespace Sys2Proof.Machine

/-- R82: decode a command, and run it or end it with `E_ILL`. -/
def runCommand (c : Command) (s : State) : Host.Outcome State Fault Refusal :=
  match decode c with
  | .ok i => exec i s
  | .error _ => .next s.rejectIllegal

/-- One step. With no input from the host the block waits, unchanged (R275, R291; DESIGN CHOICE, log entry 6). -/
def step (s : State) : Host.Outcome State Fault Refusal :=
  match s.takeInput with
  | none => .next s
  | some (.reset, t) => .next t.blockReset
  | some (.command c, t) => runCommand c t

/-- The host's next command becomes the opcode-table word `w` with its zero payload (DESIGN CHOICE, log entry 4). -/
def State.withFetchWord (s : State) (nbits w : Nat) : State :=
  { s with host := .command (tableCommand nbits w) :: s.host }

end Sys2Proof.Machine
end

