-- ==== Sys2Proof/Machine/Assembler.lean ====
section
/-! DEFINITION. The assembler of spec 30_encoding.md rules R91 to R94, from mnemonic and operands (already read
from their spelling) to an instruction, and the pseudo-instructions. It is no part of the machine's step. -/

namespace Sys2Proof.Machine

/-- R92: a written date/time; year, month and day have no default, a left-out field is `none`. -/
structure DateText where
  year : INT32
  month : INT32
  day : INT32
  weekday : Option INT32
  hour : Option INT32
  minute : Option INT32
  second : Option INT32
  millisecond : Option INT32
deriving DecidableEq, Repr

/-- R92: a missing field takes the source's default, 0. -/
def dateTextValue (t : DateText) : DateTime where
  year := t.year
  month := t.month
  day := t.day
  weekday := t.weekday.getD 0
  hour := t.hour.getD 0
  minute := t.minute.getD 0
  second := t.second.getD 0
  millisecond := t.millisecond.getD 0

/-- R91: an operand of an assembler line. A number's spelling, decimal or hexadecimal, is gone. -/
inductive AsmOperand where
  | number (n : Int)
  | bytes (bs : List Byte)
  | chip (v : Variant)
  | accessor (a : Accessor)
  | dateTime (t : DateText)
  | alarm (al : AlarmFields)
  | devAddr (a : DevAddr)
deriving DecidableEq, Repr

/-- R91: a `byte`, `mask`, `addr` or `reg` operand. -/
def numberByte (n : Int) : Option Byte := if 0 ≤ n ∧ n ≤ 255 then some (BitVec.ofInt 8 n) else none

/-- R91: an `int` or `hz` operand. -/
def numberInt32 (n : Int) : Option INT32 := if INT32.holds n then some (BitVec.ofInt 32 n) else none

/-- R91: a `val` operand is `0` or `1`. -/
def numberFlag (n : Int) : Option Bool := if n = 0 then some false else if n = 1 then some true else none

/-- R91: the operands each mnemonic takes, in order. -/
def assemble (op : Opcode) (args : List AsmOperand) : Option Instr :=
  match op, args with
  | .bcdDec, [.number b] => (numberByte b).map .bcdDec
  | .bcdEnc, [.number v] => (numberInt32 v).map .bcdEnc
  | .flagTest, [.number b, .number m] => (numberByte b).bind fun b => (numberByte m).map fun m => .flagTest b m
  | .flagMerge, [.number b, .number m, .number v] =>
    (numberByte b).bind fun b => (numberByte m).bind fun m => (numberFlag v).map fun v => .flagMerge b m v
  | .dtDec, [.bytes bs] => if bs.length = 7 then some (.dtDec bs) else none
  | .dtEnc, [.dateTime t] => some (.dtEnc (dateTextValue t))
  | .almDec, [.chip v, .bytes bs] => if bs.length = 4 then some (.almDec v bs) else none
  | .almEnc, [.chip v, .alarm al] => some (.almEnc v al)
  | .freqDec, [.chip v, .number r] => (numberByte r).map fun r => .freqDec v r
  | .freqEnc, [.chip v, .number r, .number hz] =>
    (numberByte r).bind fun r => (numberInt32 hz).map fun hz => .freqEnc v r hz
  | .map, [.chip v, .accessor a] => some (.map v a)
  | .bind, [.chip v, .devAddr a] => some (.bind v a)
  | .dtRead, [] => some .dtRead
  | .dtWrite, [.dateTime t] => some (.dtWrite (dateTextValue t))
  | .flagGet, [.accessor a] => some (.flagGet a)
  | .flagSet, [.accessor a, .number v] => (numberFlag v).map fun v => .flagSet a v
  | .freqGet, [] => some .freqGet
  | .freqSet, [.number hz] => (numberInt32 hz).map .freqSet
  | .memRead, [.number a] => (numberByte a).map .memRead
  | .memWrite, [.number a, .bytes bs] => (numberByte a).map fun a => .memWrite a bs
  | .almRead, [] => some .almRead
  | .almWrite, [.alarm al] => some (.almWrite al)
  | .reset, [] => some .reset
  | .rflagGet, [.number r, .number m] => (numberByte r).bind fun r => (numberByte m).map fun m => .rflagGet r m
  | .rflagSet, [.number r, .number m, .number v] =>
    (numberByte r).bind fun r => (numberByte m).bind fun m => (numberFlag v).map fun v => .rflagSet r m v
  | _, _ => none

/-- R94: the pseudo-instructions, named after the source's accessors. -/
inductive Pseudo where
  | dateTime
  | dateTimeSet (dt : DateTime)
  | isRunning
  | lostPower
  | lostPowerSet (v : Bool)
  | alarm
  | alarmSet (v : Bool)
  | stop
  | stopSet (v : Bool)
  | batteryLow
  | pinFreq
  | pinFreqSet (hz : INT32)
  | memory (a : Byte)
  | memorySet (a : Byte) (bs : List Byte)
  | alarmTime
  | alarmTimeSet (al : AlarmFields)
  | flag (r : RegNum) (m : Byte)
  | flagSet (r : RegNum) (m : Byte) (v : Bool)
deriving DecidableEq, Repr

/-- R94: the one command each pseudo-instruction stands for. -/
def expandPseudo : Pseudo → Instr
  | .dateTime => .dtRead
  | .dateTimeSet dt => .dtWrite dt
  | .isRunning => .flagGet .running
  | .lostPower => .flagGet .lostPower
  | .lostPowerSet v => .flagSet .lostPower v
  | .alarm => .flagGet .alarm
  | .alarmSet v => .flagSet .alarm v
  | .stop => .flagGet .stop
  | .stopSet v => .flagSet .stop v
  | .batteryLow => .flagGet .batteryLow
  | .pinFreq => .freqGet
  | .pinFreqSet hz => .freqSet hz
  | .memory a => .memRead a
  | .memorySet a bs => .memWrite a bs
  | .alarmTime => .almRead
  | .alarmTimeSet al => .almWrite al
  | .flag r m => .rflagGet r m
  | .flagSet r m v => .rflagSet r m v

end Sys2Proof.Machine
end

