-- ==== Sys2Proof/Safety.lean ====
section
/-! DEFINITION. What counts as a safe run, in the terms the statements use: the invariant of every state between
steps, the statuses each command may end with (spec 60_exceptions.md rule R262), and the transactions each may
issue (20_memory.md rule R61). -/

namespace Sys2Proof.Machine

/-- R22 to R25, R35: LIFE, CHIP and DEVADDR are set together: a `READY` block has a variant and an address, an
`UNBOUND` one has neither. -/
def State.bindingAgrees (s : State) : Bool :=
  match s.life with
  | .ready => s.chip.isSome && s.devAddr.isSome
  | .unbound => s.chip.isNone && s.devAddr.isNone

/-- The invariant of every state between steps. -/
structure Inv (s : State) : Prop where
  /-- R22 to R25 -/
  binding : s.bindingAgrees = true
  /-- R30: no command is in progress, so none holds a byte -/
  idle : s.rmwLocal = none
  /-- R50: the device register file keeps its canonical form -/
  device : s.dev.wf = true
  /-- R171: the tables are frequency tables -/
  tables : paramsWf s.params = true

/-- R83, R88: the commands that issue transactions. -/
def isBusCommand : Instr → Bool
  | .bind _ _ | .dtRead | .dtWrite _ | .flagGet _ | .flagSet _ _ | .freqGet | .freqSet _ | .memRead _
  | .memWrite _ _ | .almRead | .almWrite _ | .reset | .rflagGet _ _ | .rflagSet _ _ _ => true
  | .bcdDec _ | .bcdEnc _ | .flagTest _ _ | .flagMerge _ _ _ | .dtDec _ | .dtEnc _ | .almDec _ _ | .almEnc _ _
  | .freqDec _ _ | .freqEnc _ _ _ | .map _ _ => false

/-- R24, R261: the bus commands that need LIFE = `READY`: all but `BIND`. -/
def needsBinding : Instr → Bool
  | .bind _ _ => false
  | i => isBusCommand i

/-- R262: the status codes a decoded command may end with (`E_ILL`, 6, is decided by decoding). -/
def allowedStatuses : Instr → List (BitVec 4)
  | .bcdDec _ | .bcdEnc _ | .flagTest _ _ | .flagMerge _ _ _ | .dtDec _ | .dtEnc _ => [0]
  | .almDec _ _ | .almEnc _ _ | .map _ _ => [0, 3]
  | .freqDec _ _ => [0, 5]
  | .freqEnc _ _ _ => [0, 1]
  | .bind .pcf8523 _ => [0, 8, 4]
  | .bind .ds1307 _ | .bind .ds3231 _ => [0, 8]
  | .dtRead | .dtWrite _ | .rflagGet _ _ | .rflagSet _ _ _ => [0, 7, 4]
  | .almRead | .almWrite _ | .reset | .flagGet _ | .flagSet _ _ => [0, 7, 3, 4]
  | .freqGet => [0, 7, 4, 5]
  | .freqSet _ => [0, 7, 1, 4]
  | .memRead _ | .memWrite _ _ => [0, 7, 3, 2, 4]

/-- R61: a transaction by its direction, first register and length. -/
inductive Planned where
  | read (reg : RegNum) (n : Nat)
  | write (reg : RegNum) (n : Nat)
deriving DecidableEq, Repr

/-- The direction, first register and length of a transaction that was issued. -/
def Transaction.planned : Transaction → Planned
  | .read _ r bs => .read r bs.length
  | .readFailed _ r n _ => .read r n
  | .write _ r bs => .write r bs.length
  | .writeFailed _ r bs _ => .write r bs.length

/-- The device address a transaction carries. -/
def Transaction.addr : Transaction → DevAddr
  | .read a _ _ => a
  | .readFailed a _ _ _ => a
  | .write a _ _ => a
  | .writeFailed a _ _ _ => a

/-- R54: the failure a transaction ended with, if any. -/
def Transaction.failure : Transaction → Option XErr
  | .read _ _ _ => none
  | .readFailed _ _ _ e => some e
  | .write _ _ _ => none
  | .writeFailed _ _ _ e => some e

/-- R62: the two transactions of a read-modify-write. -/
def rmwPlan (r : RegNum) : List Planned := [.read r 1, .write r 1]

/-- R61: the transactions of each command on a block bound to a variant (`none`: not bound), in order, when
none fails. -/
def busPlan (p : Params) : Option Variant → Instr → List Planned
  | _, .bind .pcf8523 _ => rmwPlan 0x02
  | _, .bind .ds1307 _ | _, .bind .ds3231 _ => []
  | none, _ => []
  | some .ds1307, .dtRead | some .ds3231, .dtRead => [.read 0x00 7]
  | some .pcf8523, .dtRead => [.read 0x03 7]
  | some .ds1307, .dtWrite _ => [.write 0x00 7]
  | some .ds3231, .dtWrite _ => rmwPlan 0x0F ++ [.write 0x00 7]
  | some .pcf8523, .dtWrite _ => rmwPlan 0x02 ++ [.write 0x03 7]
  | some v, .flagGet acc => ((dispatch p v acc).map fun e => [Planned.read e.reg 1]).getD []
  | some v, .flagSet acc _ => ((dispatch p v acc).map fun e => rmwPlan e.reg).getD []
  | some .ds1307, .freqGet => [.read 0x07 1]
  | some .ds3231, .freqGet => [.read 0x0E 1]
  | some .pcf8523, .freqGet => [.read 0x0F 1]
  | some .ds1307, .freqSet _ => [.write 0x07 1]
  | some .ds3231, .freqSet _ => rmwPlan 0x0E
  | some .pcf8523, .freqSet _ => rmwPlan 0x0F
  | some _, .memRead a => [.read (0x08 + a) 1]
  | some _, .memWrite a bs => if bs.isEmpty then [] else [.write (0x08 + a) bs.length]
  | some _, .almRead => [.read 0x0A 4]
  | some _, .almWrite _ => [.write 0x0A 4]
  | some _, .reset => .write 0x00 1 :: rmwPlan 0x02
  | some _, .rflagGet r _ => [.read r 1]
  | some _, .rflagSet r _ _ => rmwPlan r
  | some _, .bcdDec _ | some _, .bcdEnc _ | some _, .flagTest _ _ | some _, .flagMerge _ _ _ | some _, .dtDec _
  | some _, .dtEnc _ | some _, .almDec _ _ | some _, .almEnc _ _ | some _, .freqDec _ _ | some _, .freqEnc _ _ _
  | some _, .map _ _ => []

/-- R61: the register `q` is one that a planned transaction writes. -/
def Planned.writes : Planned → Nat → Prop
  | .read _ _, _ => False
  | .write r n, q => r.toNat ≤ q ∧ q < r.toNat + n

/-- R305: the transport answers every transaction of the schedule. -/
def State.transportAnswers (s : State) : Prop := ∀ e ∈ s.bus, e.answer ≠ .never

/-- R55: the environment changes no device register during the schedule. -/
def State.undisturbed (s : State) : Prop := ∀ e ∈ s.bus, e.changes = []

/-! ### Commands as words, for the statements about encodings -/

/-- R82 case 6, R85, R86, R88: the payload is of the type of the opcode's row. -/
def payloadFits : Opcode → Value → Bool
  | .bcdEnc, .int32 _ | .freqEnc, .int32 _ | .freqSet, .int32 _ => true
  | .dtDec, .bytes bs => bs.length == 7
  | .almDec, .bytes bs => bs.length == 4
  | .memWrite, .bytes _ => true
  | .dtEnc, .dateTime _ | .dtWrite, .dateTime _ => true
  | .almEnc, .alarmFields _ | .almWrite, .alarmFields _ => true
  | .bind, .devAddr _ => true
  | .bcdDec, .none | .flagTest, .none | .flagMerge, .none | .freqDec, .none | .map, .none | .dtRead, .none
  | .flagGet, .none | .flagSet, .none | .freqGet, .none | .memRead, .none | .almRead, .none | .reset, .none
  | .rflagGet, .none | .rflagSet, .none => true
  | _, _ => false

/-- R82: the six cases in which a command is illegal. -/
def illegalCommand (c : Command) : Prop :=
  let f := Fields.ofWord c.word
  (∀ op : Opcode, op.code ≠ f.opc) ∨ f.rsv ≠ 0 ∨
  ∃ op : Opcode, op.code = f.opc ∧
    (op.shape.unusedZero f = false ∨ (op.shape.chip = true ∧ f.chip = 0) ∨
      (op.shape.acc = true ∧ 5 ≤ f.acc.toNat) ∨ payloadFits op c.payload = false)

/-- R81: an instruction's command has these word fields (`⟨OPC, CHIP, ACC, VAL, RSV, IMM8, MASK8⟩`) and this
payload. -/
def EncodesAs (i : Instr) (f : Fields) (p : Value) : Prop :=
  Fields.ofWord (encode i).word = f ∧ (encode i).payload = p

/-- R82 case 4: a command with this OPC and CHIP = `00` is illegal, whatever its other bits and its payload. -/
def NeedsChip (opc : BitVec 8) : Prop :=
  ∀ (f : Fields) (p : Value), f.opc = opc → f.chip = 0 → ∃ e, decode ⟨f.toWord, p⟩ = .error e

/-- R82 case 5: a command with this OPC and an ACC of 5 or more is illegal, whatever its other bits and its
payload. -/
def NeedsAccessor (opc : BitVec 8) : Prop :=
  ∀ (f : Fields) (p : Value), f.opc = opc → 5 ≤ f.acc.toNat → ∃ e, decode ⟨f.toWord, p⟩ = .error e

/-! ### Commands as assembler lines, for the statement about the assembler -/

/-- R92: the written date/time `t` stands for `dt`; a field left out is 0. -/
def DateText.StandsFor (t : DateText) (dt : DateTime) : Prop :=
  t.year = dt.year ∧ t.month = dt.month ∧ t.day = dt.day ∧
  (t.weekday = some dt.weekday ∨ t.weekday = none ∧ dt.weekday = 0) ∧
  (t.hour = some dt.hour ∨ t.hour = none ∧ dt.hour = 0) ∧
  (t.minute = some dt.minute ∨ t.minute = none ∧ dt.minute = 0) ∧
  (t.second = some dt.second ∨ t.second = none ∧ dt.second = 0) ∧
  (t.millisecond = some dt.millisecond ∨ t.millisecond = none ∧ dt.millisecond = 0)

/-- R87, R91: an operand that is used as the byte it holds is the number it holds. -/
def byteOperand (b : Byte) : AsmOperand := .number (b.toNat : Int)

/-- R87, R91: an INT32 operand is its signed value. -/
def intOperand (v : INT32) : AsmOperand := .number v.toInt

/-- R87, R91: `val` is 1 or 0. -/
def flagOperand (v : Bool) : AsmOperand := .number (if v then 1 else 0)

/-- R91, R92: the operands of each instruction, in the order of its row. Only a date/time has more than one
spelling. -/
def WrittenAs : Instr → List AsmOperand → Prop
  | .bcdDec b, args => args = [byteOperand b]
  | .bcdEnc v, args => args = [intOperand v]
  | .flagTest b m, args => args = [byteOperand b, byteOperand m]
  | .flagMerge b m v, args => args = [byteOperand b, byteOperand m, flagOperand v]
  | .dtDec bs, args => args = [.bytes bs]
  | .dtEnc dt, args => ∃ t : DateText, args = [.dateTime t] ∧ t.StandsFor dt
  | .almDec chip bs, args => args = [.chip chip, .bytes bs]
  | .almEnc chip al, args => args = [.chip chip, .alarm al]
  | .freqDec chip r, args => args = [.chip chip, byteOperand r]
  | .freqEnc chip old hz, args => args = [.chip chip, byteOperand old, intOperand hz]
  | .map chip acc, args => args = [.chip chip, .accessor acc]
  | .bind chip a, args => args = [.chip chip, .devAddr a]
  | .dtRead, args => args = []
  | .dtWrite dt, args => ∃ t : DateText, args = [.dateTime t] ∧ t.StandsFor dt
  | .flagGet acc, args => args = [.accessor acc]
  | .flagSet acc v, args => args = [.accessor acc, flagOperand v]
  | .freqGet, args => args = []
  | .freqSet hz, args => args = [intOperand hz]
  | .memRead a, args => args = [byteOperand a]
  | .memWrite a bs, args => args = [byteOperand a, .bytes bs]
  | .almRead, args => args = []
  | .almWrite al, args => args = [.alarm al]
  | .reset, args => args = []
  | .rflagGet r m, args => args = [byteOperand r, byteOperand m]
  | .rflagSet r m v, args => args = [byteOperand r, byteOperand m, flagOperand v]

/-! ### What the codecs give, in the words of their rules

The index `n` says which free value stands for a draw (log entry 2). -/

/-- R100: `r` is what `BCD.DEC` gives for `b`. -/
def DecodesTo (p : Params) (n : Nat) (b : Byte) (r : INT32) : Prop :=
  (b.toNat / 16 ≤ 9 ∧ b.toNat % 16 ≤ 9 → r.toInt = ((10 * (b.toNat / 16) + b.toNat % 16 : Nat) : Int)) ∧
  (p.bcdDecNonDigit = .formula → r.toInt = (b.toNat : Int) - 6 * ((b.toNat >>> 4 : Nat) : Int)) ∧
  (¬(b.toNat / 16 ≤ 9 ∧ b.toNat % 16 ≤ 9) ∧ p.bcdDecNonDigit = .any → r = Config.drawInt n)

/-- R101: `r` is what `BCD.ENC` gives for `v`. -/
def EncodesTo (n : Nat) (v : Int) (r : Byte) : Prop :=
  (0 ≤ v ∧ v ≤ 99 → (r.toNat : Int) = v + 6 * (v / 10)) ∧ (¬(0 ≤ v ∧ v ≤ 99) → r = Config.drawByte n)

/-- R120: `dt` is what `DT.DEC` gives for the seven bytes. The year is exact wherever it is an INT32. -/
def BlockDecodesTo (p : Params) (n : Nat) (b : Fin 7 → Byte) (dt : DateTime) : Prop :=
  DecodesTo p n (b 0) dt.second ∧ DecodesTo p (n + 1) (b 1) dt.minute ∧ DecodesTo p (n + 2) (b 2) dt.hour ∧
  DecodesTo p (n + 3) (b 3) dt.weekday ∧ DecodesTo p (n + 4) (b 4) dt.day ∧ DecodesTo p (n + 5) (b 5) dt.month ∧
  (∃ y, DecodesTo p (n + 6) (b 6) y ∧ (INT32.holds (y.toInt + 2000) → dt.year.toInt = y.toInt + 2000)) ∧
  dt.millisecond = 0

/-- R121: `bs` is what `DT.ENC` gives for `dt`. -/
def BlockEncodesTo (n : Nat) (dt : DateTime) (bs : List Byte) : Prop :=
  ∃ c0 c1 c2 c3 c4 c5 c6 : Byte, bs = [c0, c1, c2, c3, c4, c5, c6] ∧
    EncodesTo n dt.second.toInt c0 ∧ EncodesTo (n + 1) dt.minute.toInt c1 ∧ EncodesTo (n + 2) dt.hour.toInt c2 ∧
    EncodesTo (n + 3) dt.weekday.toInt c3 ∧ EncodesTo (n + 4) dt.day.toInt c4 ∧
    EncodesTo (n + 5) dt.month.toInt c5 ∧ EncodesTo (n + 6) (dt.year.toInt - 2000) c6

/-- R122: `o` is what one alarm byte decodes to. -/
def FieldDecodesTo (p : Params) (n : Nat) (x : Byte) (o : Option INT32) : Prop :=
  (x.getLsbD 7 = true → o = none) ∧ (x.getLsbD 7 = false → ∃ r, o = some r ∧ DecodesTo p n x r)

/-- R122: `al` is what `ALM.DEC` gives for the four bytes. -/
def AlarmDecodesTo (p : Params) (n : Nat) (b : Fin 4 → Byte) (al : AlarmFields) : Prop :=
  FieldDecodesTo p n (b 0) al.minute ∧ FieldDecodesTo p (n + 1) (b 1) al.hour ∧
  FieldDecodesTo p (n + 2) (b 2) al.day ∧ FieldDecodesTo p (n + 3) (b 3) al.weekday

/-- R123: `c` is what one alarm field encodes to, with its disabled byte. -/
def FieldEncodesTo (n : Nat) (disabled : Byte) (o : Option INT32) (c : Byte) : Prop :=
  (o = none → c = disabled) ∧ (∀ v, o = some v → EncodesTo n v.toInt c)

/-- R123: `bs` is what `ALM.ENC` gives for `al`. -/
def AlarmEncodesTo (n : Nat) (al : AlarmFields) (bs : List Byte) : Prop :=
  ∃ c0 c1 c2 c3 : Byte, bs = [c0, c1, c2, c3] ∧
    FieldEncodesTo n 0x80 al.minute c0 ∧ FieldEncodesTo (n + 1) 0x80 al.hour c1 ∧
    FieldEncodesTo (n + 2) 0x80 al.day c2 ∧ FieldEncodesTo (n + 3) 0xC0 al.weekday c3

/-- R126, R32: the date/times that survive the wire format. -/
def dateTimeOnWire (dt : DateTime) : Prop :=
  (0 ≤ dt.second.toInt ∧ dt.second.toInt ≤ 99) ∧ (0 ≤ dt.minute.toInt ∧ dt.minute.toInt ≤ 99) ∧
  (0 ≤ dt.hour.toInt ∧ dt.hour.toInt ≤ 99) ∧ (0 ≤ dt.weekday.toInt ∧ dt.weekday.toInt ≤ 99) ∧
  (0 ≤ dt.day.toInt ∧ dt.day.toInt ≤ 99) ∧ (0 ≤ dt.month.toInt ∧ dt.month.toInt ≤ 99) ∧
  (2000 ≤ dt.year.toInt ∧ dt.year.toInt ≤ 2099)

/-- R127: the alarms whose set fields are each in 0 to 79. -/
def alarmOnWire (al : AlarmFields) : Prop :=
  ∀ v, al.minute = some v ∨ al.hour = some v ∨ al.day = some v ∨ al.weekday = some v →
    0 ≤ v.toInt ∧ v.toInt ≤ 79

/-! ### The states transactions leave, field by field

Each is written as the update it is: what it does not name is unchanged. `s.takeEvent` is `s` with the
environment's changes before the transaction made and the event used up. -/

/-- The bytes a completed read of `n` registers from `reg` answers with: what the device holds when the
transaction happens (R68), free bytes where nobody has given it. -/
def State.answer (s : State) (reg : RegNum) (n : Nat) : Fin n → Byte := fun i =>
  s.takeEvent.oracle (s.draws + i) (reg.toNat + i)

/-- The byte a completed one-byte read answers with. -/
def State.answerByte (s : State) (reg : RegNum) : Byte := s.takeEvent.oracle s.draws reg.toNat

/-- R52: after a completed read of `n` registers. -/
def State.afterRead (s : State) (a : DevAddr) (reg : RegNum) (n : Nat) : State :=
  { s.takeEvent with
    draws := s.draws + n
    trace := s.trace ++ [.read a reg (List.ofFn (s.answer reg n))] }

/-- R53: after a completed write. -/
def State.afterWrite (s : State) (a : DevAddr) (reg : RegNum) (bs : List Byte) : State :=
  { s.takeEvent with
    dev := s.takeEvent.dev.writeBytes reg.toNat bs
    trace := s.trace ++ [.write a reg bs] }

/-- R54: after a failed read of `n` registers. -/
def State.afterFailedRead (s : State) (a : DevAddr) (reg : RegNum) (n : Nat) (e : XErr) : State :=
  { s.takeEvent with trace := s.trace ++ [.readFailed a reg n e] }

/-- R54, R224: after a failed write of which the bytes marked in `landed` reached the device. That it changes no
register outside its run is the model's choice (DEDUCED, log entry 14). -/
def State.afterFailedWrite (s : State) (a : DevAddr) (reg : RegNum) (bs : List Byte) (e : XErr)
    (landed : List Bool) : State :=
  { s.takeEvent with
    dev := s.takeEvent.dev.writeLanded reg.toNat bs landed
    trace := s.trace ++ [.writeFailed a reg bs e] }

/-- R62, R143: after a completed read-modify-write of one register. -/
def State.afterRmw (s : State) (a : DevAddr) (reg : RegNum) (f : Byte → Byte) : State :=
  (s.afterRead a reg 1).afterWrite a reg [f (s.answerByte reg)]

/-- The command ends with `OK` and no result, and leaves the byte `y` in the device register `r`. -/
def EndsWithRegister (i : Instr) (s : State) (r : RegNum) (y : Byte) : Prop :=
  ∃ t, exec i s = .next t ∧ t.dev.read r.toNat = some y ∧ t.responses = s.responses ++ [.ok .none]

end Sys2Proof.Machine
end

