-- ==== Sys2Proof/Certificates/Slice0/Obligations.lean ====
section
/-! DEFINITION. The statements about BCDC. A statement about a command names the state it starts from, `s`, and
gives the whole next state as an update of `s` (Safety.lean, "The states transactions leave"): what the update
does not name is unchanged. -/

open Sys2Proof Sys2Proof.Machine

/-! ### Encoding and the command port -/

/-- 30_encoding.md R81, R88: decode and encode agree on every well-formed instruction. -/
def Obligations.DecodeOfEncodeIsIdentity : Prop := ∀ i : Instr, i.wf = true → decode (encode i) = .ok i

/-- 30_encoding.md R82, R90: a command that decodes is the one encoding of a well-formed instruction, so no bit
of its word and no part of its payload is ignored. -/
def Obligations.DecodedCommandIsItsOnlyEncoding : Prop :=
  ∀ (c : Command) (i : Instr), decode c = .ok i → encode i = c ∧ i.wf = true

/-- 30_encoding.md R82: decoding is total. A command in one of the six cases ends with `E_ILL` before anything
else happens; every other one is carried out as exactly one instruction. R89: a word with a reserved OPC is
illegal. -/
def Obligations.IllegalCommandsEndWithEIll : Prop :=
  ∀ (s : State) (c : Command) (rest : List HostInput), s.host = .command c :: rest →
    (c.word.toNat % 256 = 0 ∨ (0x0C ≤ c.word.toNat % 256 ∧ c.word.toNat % 256 ≤ 0x0F) ∨
      0x1E ≤ c.word.toNat % 256 → illegalCommand c) ∧
    (illegalCommand c →
      step s = .next { s with host := rest, rmwLocal := none, responses := s.responses ++ [.error .ill] }) ∧
    (¬illegalCommand c → ∃ i, decode c = .ok i ∧ i.wf = true ∧ step s = exec i { s with host := rest })

/-- 10_state.md R21, 30_encoding.md R80: one step takes the host's next command, decodes it and runs it. With no
input the block waits, unchanged: that a waiting step changes nothing is the model's choice (log entry 6). -/
def Obligations.StepRunsTheDecodedCommand : Prop :=
  (∀ (s : State) (c : Command) (rest : List HostInput) (i : Instr), s.host = .command c :: rest →
    decode c = .ok i → step s = exec i { s with host := rest }) ∧
  (∀ s : State, s.host = [] → step s = .next s)

/-- 95_test_vectors.md: command words written out by the spec decode to the instruction they stand for. -/
def Obligations.SpecWordsDecode : Prop :=
  decode ⟨0x00590001, .none⟩ = .ok (.bcdDec 0x59) ∧
  decode ⟨0x10002004, .none⟩ = .ok (.flagMerge 0x00 0x10 true) ∧
  decode ⟨0x00000307, .bytes [0x30, 0x80, 0x80, 0xC0]⟩ = .ok (.almDec .pcf8523 [0x30, 0x80, 0x80, 0xC0]) ∧
  decode ⟨0x009C020A, .int32 4096⟩ = .ok (.freqEnc .ds3231 0x9C 4096) ∧
  decode ⟨0x00000F0B, .none⟩ = .ok (.map .pcf8523 .stop) ∧
  decode ⟨0x00000310, .devAddr ⟨104⟩⟩ = .ok (.bind .pcf8523 ⟨104⟩) ∧
  decode ⟨0x00002C14, .none⟩ = .ok (.flagSet .stop true) ∧
  decode ⟨0x00360018, .bytes [0x01, 0x02]⟩ = .ok (.memWrite 54 [0x01, 0x02]) ∧
  decode ⟨0x800F001D, .none⟩ = .ok (.rflagSet 0x0F 0x80 false)

/-- 70_reset_and_hazards.md R290: the block's reset input sets BCDC's own state and nothing else. That the
responses given and the trace survive it is the model's choice (DESIGN CHOICE, log entry 7): R290 does not say. -/
def Obligations.BlockResetClearsOnlyTheBinding : Prop :=
  ∀ (s : State) (rest : List HostInput), s.host = .reset :: rest →
    step s = .next { s with host := rest, life := .unbound, chip := none, devAddr := none, rmwLocal := none }

/-! ### The BCD codec -/

/-- 40_bcd_codec.md R100: `BCD.DEC`. -/
def Obligations.BcdDecodeCompletes : Prop :=
  ∀ (s : State) (b : Byte),
    EncodesAs (.bcdDec b) ⟨0x01, 0, 0, 0, 0, b, 0⟩ .none ∧
    ∃ r, exec (.bcdDec b) s = .next ((s.reserve 1).respond (.ok (.int32 r))) ∧ DecodesTo s.params s.draws b r

/-- 40_bcd_codec.md R101: `BCD.ENC`. -/
def Obligations.BcdEncodeCompletes : Prop :=
  ∀ (s : State) (v : INT32),
    EncodesAs (.bcdEnc v) ⟨0x02, 0, 0, 0, 0, 0, 0⟩ (.int32 v) ∧
    ∃ r, exec (.bcdEnc v) s = .next ((s.reserve 1).respond (.ok (.byte r))) ∧ EncodesTo s.draws v.toInt r

/-- 40_bcd_codec.md R103: the two commands are exact inverses on their valid domains, whatever the parameters
and whatever went before. -/
def Obligations.BcdCommandsAreInverse : Prop :=
  (∀ (s : State) (v : INT32), 0 ≤ v.toInt ∧ v.toInt ≤ 99 →
    ∃ r t u, exec (.bcdEnc v) s = .next t ∧ t.responses = s.responses ++ [.ok (.byte r)] ∧
      exec (.bcdDec r) t = .next u ∧ u.responses = t.responses ++ [.ok (.int32 v)]) ∧
  (∀ (s : State) (b : Byte), b.toNat / 16 ≤ 9 ∧ b.toNat % 16 ≤ 9 →
    ∃ v t u, exec (.bcdDec b) s = .next t ∧ t.responses = s.responses ++ [.ok (.int32 v)] ∧
      exec (.bcdEnc v) t = .next u ∧ u.responses = t.responses ++ [.ok (.byte b)])

/-- 40_bcd_codec.md R104: the ranges of the codec. -/
def Obligations.BcdCodecIsOneToOneOnDigits : Prop :=
  (∀ (n m : Nat) (v w : Int), 0 ≤ v ∧ v ≤ 99 → 0 ≤ w ∧ w ≤ 99 →
    digitValid (bcdEncode n v) = true ∧ (bcdEncode n v = bcdEncode m w → v = w)) ∧
  (∀ (n : Nat) (b : Byte), digitValid b = true → ∃ v : Int, (0 ≤ v ∧ v ≤ 99) ∧ bcdEncode n v = b) ∧
  (∀ (p : Params) (n : Nat) (b : Byte), p.bcdDecNonDigit = .formula →
    (digitValid b = true → 0 ≤ (bcdDecode p n b).toInt ∧ (bcdDecode p n b).toInt ≤ 99) ∧
    (digitValid b = false → 10 ≤ (bcdDecode p n b).toInt ∧ (bcdDecode p n b).toInt ≤ 165)) ∧
  (∀ (p : Params) (n m : Nat) (b c : Byte), p.bcdDecNonDigit = .formula → digitValid b = true →
    digitValid c = true → bcdDecode p n b = bcdDecode p m c → b = c) ∧
  (∀ (p : Params) (n : Nat) (v : Int), p.bcdDecNonDigit = .formula → 0 ≤ v ∧ v ≤ 99 →
    ∃ b : Byte, digitValid b = true ∧ (bcdDecode p n b).toInt = v) ∧
  (∀ (p : Params) (n : Nat), p.bcdDecNonDigit = .formula → digitValid 0x0A = false ∧ (bcdDecode p n 0x0A).toInt = 10)

/-! ### The record codecs -/

/-- 41_record_codec.md R120: `DT.DEC`. -/
def Obligations.DateTimeDecodeCompletes : Prop :=
  (∀ (s : State) (b : Fin 7 → Byte),
    EncodesAs (.dtDec (List.ofFn b)) ⟨0x05, 0, 0, 0, 0, 0, 0⟩ (.bytes (List.ofFn b)) ∧
    ∃ dt, exec (.dtDec (List.ofFn b)) s = .next ((s.reserve 8).respond (.ok (.dateTime dt))) ∧
      BlockDecodesTo s.params s.draws b dt) ∧
  (∀ bs : List Byte, bs.length ≠ 7 → decode ⟨0x00000005, .bytes bs⟩ = .error .payloadType)

/-- 41_record_codec.md R121: `DT.ENC`. -/
def Obligations.DateTimeEncodeCompletes : Prop :=
  ∀ (s : State) (dt : DateTime),
    EncodesAs (.dtEnc dt) ⟨0x06, 0, 0, 0, 0, 0, 0⟩ (.dateTime dt) ∧
    ∃ bs, exec (.dtEnc dt) s = .next ((s.reserve 7).respond (.ok (.bytes bs))) ∧ BlockEncodesTo s.draws dt bs

/-- 41_record_codec.md R126: a date/time within the wire format survives encoding and decoding, but for its
millisecond. -/
def Obligations.DateTimeSurvivesTheCodec : Prop :=
  ∀ (s : State) (dt : DateTime), dateTimeOnWire dt →
    ∃ bs t u, exec (.dtEnc dt) s = .next t ∧ t.responses = s.responses ++ [.ok (.bytes bs)] ∧
      exec (.dtDec bs) t = .next u ∧
      u.responses = t.responses ++ [.ok (.dateTime { dt with millisecond := 0 })]

/-- 41_record_codec.md R122: `ALM.DEC`. -/
def Obligations.AlarmDecodeCompletes : Prop :=
  ∀ (s : State) (v : Variant) (b : Fin 4 → Byte),
    EncodesAs (.almDec v (List.ofFn b)) ⟨0x07, v.code, 0, 0, 0, 0, 0⟩ (.bytes (List.ofFn b)) ∧ NeedsChip 0x07 ∧
    (v = .pcf8523 →
      ∃ al, exec (.almDec v (List.ofFn b)) s = .next ((s.reserve 4).respond (.ok (.alarmFields al))) ∧
        AlarmDecodesTo s.params s.draws b al) ∧
    (v ≠ .pcf8523 → exec (.almDec v (List.ofFn b)) s = .next (s.respond (.error .cap)))

/-- 41_record_codec.md R123: `ALM.ENC`. -/
def Obligations.AlarmEncodeCompletes : Prop :=
  ∀ (s : State) (v : Variant) (al : AlarmFields),
    EncodesAs (.almEnc v al) ⟨0x08, v.code, 0, 0, 0, 0, 0⟩ (.alarmFields al) ∧ NeedsChip 0x08 ∧
    (v = .pcf8523 →
      ∃ bs, exec (.almEnc v al) s = .next ((s.reserve 4).respond (.ok (.bytes bs))) ∧
        AlarmEncodesTo s.draws al bs) ∧
    (v ≠ .pcf8523 → exec (.almEnc v al) s = .next (s.respond (.error .cap)))

/-- 41_record_codec.md R127: an alarm whose set fields are in 0 to 79 survives encoding and decoding; a set
field from 80 to 99 reads back as unset. -/
def Obligations.AlarmSurvivesTheCodec : Prop :=
  (∀ (s : State) (al : AlarmFields), alarmOnWire al →
    ∃ bs t u, exec (.almEnc .pcf8523 al) s = .next t ∧ t.responses = s.responses ++ [.ok (.bytes bs)] ∧
      exec (.almDec .pcf8523 bs) t = .next u ∧ u.responses = t.responses ++ [.ok (.alarmFields al)]) ∧
  (∀ (s : State) (al : AlarmFields) (v : INT32), 80 ≤ v.toInt ∧ v.toInt ≤ 99 →
    ∃ bs t u back, exec (.almEnc .pcf8523 al) s = .next t ∧ t.responses = s.responses ++ [.ok (.bytes bs)] ∧
      exec (.almDec .pcf8523 bs) t = .next u ∧ u.responses = t.responses ++ [.ok (.alarmFields back)] ∧
      (al.minute = some v → back.minute = none) ∧ (al.hour = some v → back.hour = none) ∧
      (al.day = some v → back.day = none) ∧ (al.weekday = some v → back.weekday = none))

/-! ### Flag composition -/

/-- 42_flag_composition.md R140: `FLAG.TEST`. -/
def Obligations.FlagTestCompletes : Prop :=
  ∀ (s : State) (b m : Byte),
    EncodesAs (.flagTest b m) ⟨0x03, 0, 0, 0, 0, b, m⟩ .none ∧
    exec (.flagTest b m) s = .next (s.respond (.ok (.bool (decide (b &&& m = m)))))

/-- 42_flag_composition.md R141: `FLAG.MERGE`. -/
def Obligations.FlagMergeCompletes : Prop :=
  ∀ (s : State) (b m : Byte) (v : Bool),
    EncodesAs (.flagMerge b m v) ⟨0x04, 0, 0, if v then 1 else 0, 0, b, m⟩ .none ∧
    exec (.flagMerge b m v) s = .next (s.respond (.ok (.byte (if v then b ||| m else b &&& (0xFF ^^^ m)))))

/-- 42_flag_composition.md R141: a merge gives the flag's value to every bit of the mask and leaves every other
bit. -/
def Obligations.FlagMergeChangesOnlyTheMask : Prop :=
  ∀ (b m : Byte) (v : Bool) (i : Nat), i < 8 →
    (flagMerge b m v).getLsbD i = if m.getLsbD i then v else b.getLsbD i

/-- 42_flag_composition.md R142: `RFLAG.GET`. -/
def Obligations.RegisterFlagGetCompletes : Prop :=
  ∀ (s : State) (r : RegNum) (m : Byte),
    EncodesAs (.rflagGet r m) ⟨0x1C, 0, 0, 0, 0, r, m⟩ .none ∧
    (s.life = .unbound → exec (.rflagGet r m) s = .next (s.respond (.error .unbound))) ∧
    ∀ (v : Variant) (a : DevAddr), s.life = .ready → s.chip = some v → s.devAddr = some a →
      (s.nextEvent.answer = .ok →
        exec (.rflagGet r m) s =
          .next ((s.afterRead a r 1).respond (.ok (.bool (decide (s.answerByte r &&& m = m)))))) ∧
      (∀ e landed, s.nextEvent.answer = .fail e landed →
        exec (.rflagGet r m) s = .next ((s.afterFailedRead a r 1 e).respond (.error (.xport e))))

/-- 42_flag_composition.md R143: `RFLAG.SET`.
That a failed write changes no register outside its run is the model's choice (DEDUCED, log entry 14). -/
def Obligations.RegisterFlagSetCompletes : Prop :=
  ∀ (s : State) (r : RegNum) (m : Byte) (v : Bool),
    EncodesAs (.rflagSet r m v) ⟨0x1D, 0, 0, if v then 1 else 0, 0, r, m⟩ .none ∧
    (s.life = .unbound → exec (.rflagSet r m v) s = .next (s.respond (.error .unbound))) ∧
    ∀ (chip : Variant) (a : DevAddr), s.life = .ready → s.chip = some chip → s.devAddr = some a →
      (s.nextEvent.answer = .ok → s.takeEvent.nextEvent.answer = .ok →
        exec (.rflagSet r m v) s =
          .next ((s.afterRmw a r fun x => if v then x ||| m else x &&& (0xFF ^^^ m)).respond (.ok .none))) ∧
      (∀ e landed, s.nextEvent.answer = .fail e landed →
        exec (.rflagSet r m v) s = .next ((s.afterFailedRead a r 1 e).respond (.error (.xport e)))) ∧
      (∀ e landed, s.nextEvent.answer = .ok → s.takeEvent.nextEvent.answer = .fail e landed →
        exec (.rflagSet r m v) s =
          .next (((s.afterRead a r 1).afterFailedWrite a r
            [if v then s.answerByte r ||| m else s.answerByte r &&& (0xFF ^^^ m)] e landed).respond
              (.error (.xport e))))

/-- 42_flag_composition.md R146: what `RFLAG.SET` leaves and a following `RFLAG.GET` reads, under the simulator
oracle (nothing in the schedule) and with the environment writing `z` in between. -/
def Obligations.RegisterFlagReadsBackWhatWasSet : Prop :=
  ∀ (s : State) (chip : Variant) (a : DevAddr) (r : RegNum) (x m : Byte) (v : Bool), s.life = .ready →
    s.chip = some chip → s.devAddr = some a → s.dev.read r.toNat = some x →
    (s.bus = [] →
      ∃ t u, exec (.rflagSet r m v) s = .next t ∧ t.dev.read r.toNat = some (flagMerge x m v) ∧
        exec (.rflagGet r m) t = .next u ∧
        u.responses = t.responses ++ [.ok (.bool (if m = 0 then true else v))]) ∧
    (∀ z : Byte, s.bus = [quietEvent, quietEvent, ⟨[(r, z)], .ok⟩] →
      ∃ t u, exec (.rflagSet r m v) s = .next t ∧ exec (.rflagGet r m) t = .next u ∧
        u.responses = t.responses ++ [.ok (.bool (flagTest z m))])

/-- 20_memory.md R62, 70_reset_and_hazards.md R296: an environment write between the read and the write of a
read-modify-write is lost: the register gets the byte computed from what was read before it, and the command ends
with `OK`. One clause for each command of R296. -/
def Obligations.EnvironmentWriteInsideReadModifyWriteIsLost : Prop :=
  (∀ (s : State) (chip : Variant) (a : DevAddr) (r : RegNum) (x z : Byte) (rest : List BusEvent),
    s.life = .ready → s.chip = some chip → s.devAddr = some a → s.dev.read r.toNat = some x →
    s.bus = quietEvent :: ⟨[(r, z)], .ok⟩ :: rest →
    (∀ (m : Byte) (v : Bool), EndsWithRegister (.rflagSet r m v) s r (flagMerge x m v)) ∧
    (∀ (acc : Accessor) (e : MapEntry) (v : Bool), dispatch s.params chip acc = some e → e.access = .rw →
      e.reg = r → EndsWithRegister (.flagSet acc v) s r (flagMerge x e.mask v)) ∧
    (∀ row ∈ (freqTable s.params chip).rows, freqTableWf (freqTable s.params chip) = true →
      (chip, r) ∈ [(Variant.ds3231, (0x0E : RegNum)), (.pcf8523, 0x0F)] →
      EndsWithRegister (.freqSet row.key) s r ((x &&& ~~~(freqTable s.params chip).mask) ||| row.pattern)) ∧
    (∀ (dt : DateTime) (keep : Byte) (later : List BusEvent), rest = quietEvent :: later →
      (chip, r, keep) ∈ [(Variant.ds3231, (0x0F : RegNum), (0x7F : Byte)), (.pcf8523, 0x02, 0xEF)] →
      EndsWithRegister (.dtWrite dt) s r (x &&& keep))) ∧
  (∀ (s : State) (a : DevAddr) (x z : Byte) (rest : List BusEvent),
    s.life = .unbound → s.dev.read 0x02 = some x → s.bus = quietEvent :: ⟨[(0x02, z)], .ok⟩ :: rest →
    EndsWithRegister (.bind .pcf8523 a) s 0x02 (x &&& 0x1F)) ∧
  (∀ (s : State) (a : DevAddr) (x z : Byte) (rest : List BusEvent),
    s.life = .ready → s.chip = some .pcf8523 → s.devAddr = some a → s.dev.read 0x02 = some x →
    s.bus = quietEvent :: quietEvent :: ⟨[(0x02, z)], .ok⟩ :: rest →
    EndsWithRegister .reset s 0x02 (x &&& 0x1F))

/-! ### The register map and the frequency tables -/

/-- 43_register_map.md R167: the accessor dispatch table. -/
def Obligations.AccessorDispatchTable : Prop :=
  ∀ p : Params,
    dispatch p .ds1307 .running = some ⟨0x00, 0x80, .ro, p.ds1307RunningInvert⟩ ∧
    dispatch p .ds1307 .lostPower = none ∧ dispatch p .ds1307 .alarm = none ∧
    dispatch p .ds1307 .stop = none ∧ dispatch p .ds1307 .batteryLow = none ∧
    dispatch p .ds3231 .running = none ∧ dispatch p .ds3231 .lostPower = some ⟨0x0F, 0x80, .ro, false⟩ ∧
    dispatch p .ds3231 .alarm = some ⟨0x0F, 0x03, .rw, false⟩ ∧
    dispatch p .ds3231 .stop = some ⟨0x0E, 0x80, .rw, false⟩ ∧ dispatch p .ds3231 .batteryLow = none ∧
    dispatch p .pcf8523 .running = none ∧ dispatch p .pcf8523 .lostPower = some ⟨0x02, 0x10, .rw, false⟩ ∧
    dispatch p .pcf8523 .alarm = some ⟨0x01, 0x08, .rw, false⟩ ∧
    dispatch p .pcf8523 .stop = some ⟨0x00, 0x10, .rw, false⟩ ∧
    dispatch p .pcf8523 .batteryLow = some ⟨0x02, 0x04, .ro, false⟩

/-- 43_register_map.md R178: `FREQ.DEC`, over any table of R171. -/
def Obligations.FrequencyDecodeCompletes : Prop :=
  ∀ (s : State) (v : Variant) (r : Byte), freqTableWf (freqTable s.params v) = true →
    EncodesAs (.freqDec v r) ⟨0x09, v.code, 0, 0, 0, r, 0⟩ .none ∧ NeedsChip 0x09 ∧
    (∀ row ∈ (freqTable s.params v).rows, row.pattern = r &&& (freqTable s.params v).mask →
      exec (.freqDec v r) s = .next (s.respond (.ok (.int32 row.key)))) ∧
    ((∀ row ∈ (freqTable s.params v).rows, row.pattern ≠ r &&& (freqTable s.params v).mask) →
      exec (.freqDec v r) s = .next (s.respond (.error (.pattern r))))

/-- 43_register_map.md R177: all eight PCF8523 field values have a row, so decoding never ends with
`E_PATTERN`. -/
def Obligations.Pcf8523DecodingNeverMisses : Prop :=
  ∀ (s : State) (r : Byte), ∃ row ∈ pcf8523Rows s.params.pcf8523F0Key,
    row.pattern = BitVec.ofNat 8 (r.toNat / 8 % 8 * 8) ∧
    exec (.freqDec .pcf8523 r) s = .next (s.respond (.ok (.int32 row.key)))

/-- 43_register_map.md R179: `FREQ.ENC`, over any table of R171. -/
def Obligations.FrequencyEncodeCompletes : Prop :=
  ∀ (s : State) (v : Variant) (r : Byte) (hz : INT32), freqTableWf (freqTable s.params v) = true →
    EncodesAs (.freqEnc v r hz) ⟨0x0A, v.code, 0, 0, 0, r, 0⟩ (.int32 hz) ∧ NeedsChip 0x0A ∧
    (∀ row ∈ (freqTable s.params v).rows, row.key = hz →
      ((freqTable s.params v).mode = .direct →
        exec (.freqEnc v r hz) s = .next (s.respond (.ok (.byte row.pattern)))) ∧
      ((freqTable s.params v).mode = .rmw →
        exec (.freqEnc v r hz) s =
          .next (s.respond (.ok (.byte ((r &&& ~~~(freqTable s.params v).mask) ||| row.pattern)))))) ∧
    ((∀ row ∈ (freqTable s.params v).rows, row.key ≠ hz) →
      exec (.freqEnc v r hz) s =
        .next (s.respond (.error (.value ((freqTable s.params v).rows.map FreqRow.key)))))

/-- 43_register_map.md R180: `MAP`. -/
def Obligations.MapCompletes : Prop :=
  ∀ (s : State) (v : Variant) (acc : Accessor),
    EncodesAs (.map v acc) ⟨0x0B, v.code, acc.code, 0, 0, 0, 0⟩ .none ∧ NeedsChip 0x0B ∧ NeedsAccessor 0x0B ∧
    (∀ e, dispatch s.params v acc = some e → exec (.map v acc) s = .next (s.respond (.ok (.mapEntry e)))) ∧
    (dispatch s.params v acc = none → exec (.map v acc) s = .next (s.respond (.error .cap)))

/-! ### The bus commands -/

/-- 44_bus_operations.md R200, R201, R223, R224: `BIND`.
That a failed write changes no register outside its run is the model's choice (DEDUCED, log entry 14). -/
def Obligations.BindCompletes : Prop :=
  ∀ (s : State) (v : Variant) (a : DevAddr),
    EncodesAs (.bind v a) ⟨0x10, v.code, 0, 0, 0, 0, 0⟩ (.devAddr a) ∧ NeedsChip 0x10 ∧
    (s.life = .ready → exec (.bind v a) s = .next (s.respond (.error .rebind))) ∧
    (s.life = .unbound → v ≠ .pcf8523 →
      exec (.bind v a) s =
        .next (({ s with life := .ready, chip := some v, devAddr := some a } : State).respond (.ok .none))) ∧
    (s.life = .unbound → v = .pcf8523 →
      (s.nextEvent.answer = .ok → s.takeEvent.nextEvent.answer = .ok →
        exec (.bind v a) s =
          .next (({ s.afterRmw a 0x02 (fun x => x &&& 0x1F) with
            life := .ready, chip := some v, devAddr := some a } : State).respond (.ok .none))) ∧
      (∀ e landed, s.nextEvent.answer = .fail e landed →
        exec (.bind v a) s = .next ((s.afterFailedRead a 0x02 1 e).respond (.error (.xport e)))) ∧
      (∀ e landed, s.nextEvent.answer = .ok → s.takeEvent.nextEvent.answer = .fail e landed →
        exec (.bind v a) s =
          .next (((s.afterRead a 0x02 1).afterFailedWrite a 0x02 [s.answerByte 0x02 &&& 0x1F] e landed).respond
            (.error (.xport e)))))

/-- 44_bus_operations.md R202: `DT.READ`, one read of 7 registers. -/
def Obligations.DateTimeReadCompletes : Prop :=
  ∀ (s : State) (v : Variant) (a : DevAddr) (base : RegNum), s.life = .ready → s.chip = some v →
    s.devAddr = some a → (v, base) ∈ [(Variant.ds1307, (0x00 : RegNum)), (.ds3231, 0x00), (.pcf8523, 0x03)] →
    EncodesAs .dtRead ⟨0x11, 0, 0, 0, 0, 0, 0⟩ .none ∧
    (s.nextEvent.answer = .ok →
      ∃ dt, exec .dtRead s = .next (((s.afterRead a base 7).reserve 8).respond (.ok (.dateTime dt))) ∧
        BlockDecodesTo s.params (s.draws + 7) (s.answer base 7) dt) ∧
    (∀ e landed, s.nextEvent.answer = .fail e landed →
      exec .dtRead s = .next ((s.afterFailedRead a base 7 e).respond (.error (.xport e))))

/-- 44_bus_operations.md R203, R204, R224: `DT.WRITE`, with each variant's pre-step, and where it fails: at the
pre-step's read, at its write, at the 7-byte write. What completed stays; what comes later is not issued.
That a failed write changes no register outside its run is the model's choice (DEDUCED, log entry 14). -/
def Obligations.DateTimeWriteCompletes : Prop :=
  ∀ (s : State) (v : Variant) (a : DevAddr) (dt : DateTime), s.life = .ready → s.chip = some v →
    s.devAddr = some a →
    EncodesAs (.dtWrite dt) ⟨0x12, 0, 0, 0, 0, 0, 0⟩ (.dateTime dt) ∧
    ∃ bs, BlockEncodesTo s.draws dt bs ∧
      (v = .ds1307 → s.nextEvent.answer = .ok →
        exec (.dtWrite dt) s = .next (((s.reserve 7).afterWrite a 0x00 bs).respond (.ok .none))) ∧
      (v = .ds1307 → ∀ e landed, s.nextEvent.answer = .fail e landed →
        exec (.dtWrite dt) s =
          .next (((s.reserve 7).afterFailedWrite a 0x00 bs e landed).respond (.error (.xport e)))) ∧
      (v = .ds3231 → s.nextEvent.answer = .ok → s.takeEvent.nextEvent.answer = .ok →
        s.takeEvent.takeEvent.nextEvent.answer = .ok →
        exec (.dtWrite dt) s =
          .next ((((s.reserve 7).afterRmw a 0x0F fun x => x &&& 0x7F).afterWrite a 0x00 bs).respond (.ok .none))) ∧
      (v = .pcf8523 → s.nextEvent.answer = .ok → s.takeEvent.nextEvent.answer = .ok →
        s.takeEvent.takeEvent.nextEvent.answer = .ok →
        exec (.dtWrite dt) s =
          .next ((((s.reserve 7).afterRmw a 0x02 fun x => x &&& 0xEF).afterWrite a 0x03 bs).respond (.ok .none))) ∧
      (∀ pre base keep, (v, pre, base, keep) ∈
          [(Variant.ds3231, (0x0F : RegNum), (0x00 : RegNum), (0x7F : Byte)), (.pcf8523, 0x02, 0x03, 0xEF)] →
        ∀ e landed,
        (s.nextEvent.answer = .fail e landed →
          exec (.dtWrite dt) s =
            .next (((s.reserve 7).afterFailedRead a pre 1 e).respond (.error (.xport e)))) ∧
        (s.nextEvent.answer = .ok → s.takeEvent.nextEvent.answer = .fail e landed →
          exec (.dtWrite dt) s =
            .next ((((s.reserve 7).afterRead a pre 1).afterFailedWrite a pre
              [(s.reserve 7).answerByte pre &&& keep] e landed).respond (.error (.xport e)))) ∧
        (s.nextEvent.answer = .ok → s.takeEvent.nextEvent.answer = .ok →
          s.takeEvent.takeEvent.nextEvent.answer = .fail e landed →
          exec (.dtWrite dt) s =
            .next ((((s.reserve 7).afterRmw a pre fun x => x &&& keep).afterFailedWrite a base bs e landed).respond
              (.error (.xport e)))))

/-- 41_record_codec.md R126, 44_bus_operations.md R202, R204: under the simulator oracle a date/time within the
wire format reads back as written, but for its millisecond, on every variant. -/
def Obligations.DateTimeReadsBackAsWritten : Prop :=
  ∀ (s : State) (v : Variant) (a : DevAddr) (dt : DateTime), s.life = .ready → s.chip = some v →
    s.devAddr = some a → s.bus = [] → dateTimeOnWire dt →
    ∃ t u, exec (.dtWrite dt) s = .next t ∧ exec .dtRead t = .next u ∧
      u.responses = t.responses ++ [.ok (.dateTime { dt with millisecond := 0 })]

/-- 44_bus_operations.md R205, R206: `FLAG.GET`. -/
def Obligations.FlagGetCompletes : Prop :=
  ∀ (s : State) (v : Variant) (a : DevAddr) (acc : Accessor), s.life = .ready → s.chip = some v →
    s.devAddr = some a →
    EncodesAs (.flagGet acc) ⟨0x13, 0, acc.code, 0, 0, 0, 0⟩ .none ∧ NeedsAccessor 0x13 ∧
    (dispatch s.params v acc = none → exec (.flagGet acc) s = .next (s.respond (.error .cap))) ∧
    (∀ e, dispatch s.params v acc = some e →
      (s.nextEvent.answer = .ok →
        exec (.flagGet acc) s =
          .next ((s.afterRead a e.reg 1).respond
            (.ok (.bool (xor e.invert (decide (s.answerByte e.reg &&& e.mask = e.mask))))))) ∧
      (∀ x landed, s.nextEvent.answer = .fail x landed →
        exec (.flagGet acc) s = .next ((s.afterFailedRead a e.reg 1 x).respond (.error (.xport x)))))

/-- 44_bus_operations.md R207: what each supported accessor reports of the byte read. -/
def Obligations.FlagReadingsByVariant : Prop :=
  ∀ (p : Params) (x : Byte) (e : MapEntry),
    (dispatch p .ds1307 .running = some e →
      e.reg = 0x00 ∧ entryReading e x = if p.ds1307RunningInvert then !x.getLsbD 7 else x.getLsbD 7) ∧
    (dispatch p .ds3231 .lostPower = some e → e.reg = 0x0F ∧ entryReading e x = x.getLsbD 7) ∧
    (dispatch p .ds3231 .alarm = some e → e.reg = 0x0F ∧ entryReading e x = (x.getLsbD 1 && x.getLsbD 0)) ∧
    (dispatch p .ds3231 .stop = some e → e.reg = 0x0E ∧ entryReading e x = x.getLsbD 7) ∧
    (dispatch p .pcf8523 .lostPower = some e → e.reg = 0x02 ∧ entryReading e x = x.getLsbD 4) ∧
    (dispatch p .pcf8523 .alarm = some e → e.reg = 0x01 ∧ entryReading e x = x.getLsbD 3) ∧
    (dispatch p .pcf8523 .stop = some e → e.reg = 0x00 ∧ entryReading e x = x.getLsbD 4) ∧
    (dispatch p .pcf8523 .batteryLow = some e → e.reg = 0x02 ∧ entryReading e x = x.getLsbD 2)

/-- 44_bus_operations.md R208, 43_register_map.md R170: `FLAG.SET`.
That a failed write changes no register outside its run is the model's choice (DEDUCED, log entry 14). -/
def Obligations.FlagSetCompletes : Prop :=
  ∀ (s : State) (v : Variant) (a : DevAddr) (acc : Accessor) (on : Bool), s.life = .ready → s.chip = some v →
    s.devAddr = some a →
    EncodesAs (.flagSet acc on) ⟨0x14, 0, acc.code, if on then 1 else 0, 0, 0, 0⟩ .none ∧ NeedsAccessor 0x14 ∧
    (dispatch s.params v acc = none → exec (.flagSet acc on) s = .next (s.respond (.error .cap))) ∧
    (∀ e, dispatch s.params v acc = some e → e.access = .ro →
      exec (.flagSet acc on) s = .next (s.respond (.error .cap))) ∧
    (∀ e, dispatch s.params v acc = some e → e.access = .rw → s.nextEvent.answer = .ok →
      s.takeEvent.nextEvent.answer = .ok →
      exec (.flagSet acc on) s =
        .next ((s.afterRmw a e.reg fun x => if on then x ||| e.mask else x &&& ~~~e.mask).respond (.ok .none))) ∧
    (∀ e, dispatch s.params v acc = some e → e.access = .rw → ∀ x landed,
      (s.nextEvent.answer = .fail x landed →
        exec (.flagSet acc on) s = .next ((s.afterFailedRead a e.reg 1 x).respond (.error (.xport x)))) ∧
      (s.nextEvent.answer = .ok → s.takeEvent.nextEvent.answer = .fail x landed →
        exec (.flagSet acc on) s =
          .next (((s.afterRead a e.reg 1).afterFailedWrite a e.reg
            [if on then s.answerByte e.reg ||| e.mask else s.answerByte e.reg &&& ~~~e.mask] x landed).respond
              (.error (.xport x)))))

/-- 44_bus_operations.md R210: `FREQ.GET`. -/
def Obligations.FrequencyGetCompletes : Prop :=
  ∀ (s : State) (v : Variant) (a : DevAddr) (reg : RegNum), s.life = .ready → s.chip = some v →
    s.devAddr = some a → (v, reg) ∈ [(Variant.ds1307, (0x07 : RegNum)), (.ds3231, 0x0E), (.pcf8523, 0x0F)] →
    freqTableWf (freqTable s.params v) = true →
    EncodesAs .freqGet ⟨0x15, 0, 0, 0, 0, 0, 0⟩ .none ∧
    (s.nextEvent.answer = .ok →
      (∀ row ∈ (freqTable s.params v).rows,
        row.pattern = s.answerByte reg &&& (freqTable s.params v).mask →
        exec .freqGet s = .next ((s.afterRead a reg 1).respond (.ok (.int32 row.key)))) ∧
      ((∀ row ∈ (freqTable s.params v).rows,
        row.pattern ≠ s.answerByte reg &&& (freqTable s.params v).mask) →
        exec .freqGet s = .next ((s.afterRead a reg 1).respond (.error (.pattern (s.answerByte reg)))))) ∧
    (∀ e landed, s.nextEvent.answer = .fail e landed →
      exec .freqGet s = .next ((s.afterFailedRead a reg 1 e).respond (.error (.xport e))))

/-- 44_bus_operations.md R212: `FREQ.SET`, where it completes and where a transaction of it fails.
That a failed write changes no register outside its run is the model's choice (DEDUCED, log entry 14). -/
def Obligations.FrequencySetCompletes : Prop :=
  ∀ (s : State) (v : Variant) (a : DevAddr) (reg : RegNum) (hz : INT32), s.life = .ready → s.chip = some v →
    s.devAddr = some a → (v, reg) ∈ [(Variant.ds1307, (0x07 : RegNum)), (.ds3231, 0x0E), (.pcf8523, 0x0F)] →
    freqTableWf (freqTable s.params v) = true →
    EncodesAs (.freqSet hz) ⟨0x16, 0, 0, 0, 0, 0, 0⟩ (.int32 hz) ∧
    (∀ row ∈ (freqTable s.params v).rows, row.key = hz →
      (v = .ds1307 → s.nextEvent.answer = .ok →
        exec (.freqSet hz) s = .next ((s.afterWrite a reg [row.pattern]).respond (.ok .none))) ∧
      (v = .ds1307 → ∀ e landed, s.nextEvent.answer = .fail e landed →
        exec (.freqSet hz) s =
          .next ((s.afterFailedWrite a reg [row.pattern] e landed).respond (.error (.xport e)))) ∧
      (v ≠ .ds1307 → s.nextEvent.answer = .ok → s.takeEvent.nextEvent.answer = .ok →
        exec (.freqSet hz) s =
          .next ((s.afterRmw a reg fun x => (x &&& ~~~(freqTable s.params v).mask) ||| row.pattern).respond
            (.ok .none))) ∧
      (v ≠ .ds1307 → ∀ e landed,
        (s.nextEvent.answer = .fail e landed →
          exec (.freqSet hz) s = .next ((s.afterFailedRead a reg 1 e).respond (.error (.xport e)))) ∧
        (s.nextEvent.answer = .ok → s.takeEvent.nextEvent.answer = .fail e landed →
          exec (.freqSet hz) s =
            .next (((s.afterRead a reg 1).afterFailedWrite a reg
              [(s.answerByte reg &&& ~~~(freqTable s.params v).mask) ||| row.pattern] e landed).respond
                (.error (.xport e)))))) ∧
    ((∀ row ∈ (freqTable s.params v).rows, row.key ≠ hz) →
      exec (.freqSet hz) s =
        .next (s.respond (.error (.value ((freqTable s.params v).rows.map FreqRow.key)))))

/-- 44_bus_operations.md R213: under the simulator oracle, `FREQ.GET` returns the key `FREQ.SET` was given, for
every key of the bound variant's table. -/
def Obligations.FrequencyReadsBackAsSet : Prop :=
  ∀ (s : State) (v : Variant) (a : DevAddr) (row : FreqRow), s.life = .ready → s.chip = some v →
    s.devAddr = some a → s.bus = [] → freqTableWf (freqTable s.params v) = true →
    row ∈ (freqTable s.params v).rows →
    ∃ t u, exec (.freqSet row.key) s = .next t ∧ exec .freqGet t = .next u ∧
      u.responses = t.responses ++ [.ok (.int32 row.key)]

/-- 44_bus_operations.md R214, R215: `MEM.READ`. -/
def Obligations.NvramReadCompletes : Prop :=
  ∀ (s : State) (v : Variant) (addr : DevAddr) (a : Byte), s.life = .ready → s.chip = some v →
    s.devAddr = some addr →
    EncodesAs (.memRead a) ⟨0x17, 0, 0, 0, 0, a, 0⟩ .none ∧
    (v ≠ .ds1307 → exec (.memRead a) s = .next (s.respond (.error .cap))) ∧
    (v = .ds1307 → 56 ≤ a.toNat → exec (.memRead a) s = .next (s.respond (.error .range))) ∧
    (v = .ds1307 → a.toNat ≤ 55 → s.nextEvent.answer = .ok →
      exec (.memRead a) s =
        .next ((s.afterRead addr (0x08 + a) 1).respond (.ok (.byte (s.answerByte (0x08 + a)))))) ∧
    (v = .ds1307 → a.toNat ≤ 55 → ∀ e landed, s.nextEvent.answer = .fail e landed →
      exec (.memRead a) s = .next ((s.afterFailedRead addr (0x08 + a) 1 e).respond (.error (.xport e))))

/-- 44_bus_operations.md R215, R216: `MEM.WRITE`.
That a failed write changes no register outside its run is the model's choice (DEDUCED, log entry 14). -/
def Obligations.NvramWriteCompletes : Prop :=
  ∀ (s : State) (v : Variant) (addr : DevAddr) (a : Byte) (bs : List Byte), s.life = .ready → s.chip = some v →
    s.devAddr = some addr →
    EncodesAs (.memWrite a bs) ⟨0x18, 0, 0, 0, 0, a, 0⟩ (.bytes bs) ∧
    (v ≠ .ds1307 → exec (.memWrite a bs) s = .next (s.respond (.error .cap))) ∧
    (v = .ds1307 → 55 < a.toNat ∨ 56 < a.toNat + bs.length →
      exec (.memWrite a bs) s = .next (s.respond (.error .range))) ∧
    (v = .ds1307 → a.toNat ≤ 55 → bs = [] → exec (.memWrite a bs) s = .next (s.respond (.ok .none))) ∧
    (v = .ds1307 → bs ≠ [] → a.toNat + bs.length ≤ 56 →
      (s.nextEvent.answer = .ok →
        exec (.memWrite a bs) s = .next ((s.afterWrite addr (0x08 + a) bs).respond (.ok .none))) ∧
      (∀ e landed, s.nextEvent.answer = .fail e landed →
        exec (.memWrite a bs) s =
          .next ((s.afterFailedWrite addr (0x08 + a) bs e landed).respond (.error (.xport e)))))

/-- 44_bus_operations.md R217: under the simulator oracle, NVRAM bytes read back as written. -/
def Obligations.NvramReadsBackAsWritten : Prop :=
  ∀ (s : State) (addr : DevAddr) (a : Byte) (bs : List Byte) (t : State) (i : Nat) (h : i < bs.length),
    s.life = .ready → s.chip = some .ds1307 → s.devAddr = some addr → s.bus = [] →
    exec (.memWrite a bs) s = .next t → t.responses = s.responses ++ [.ok .none] →
    ∃ u, exec (.memRead (a + BitVec.ofNat 8 i)) t = .next u ∧
      u.responses = t.responses ++ [.ok (.byte bs[i])]

/-- 44_bus_operations.md R218: `ALM.READ`, one read of 4 registers. -/
def Obligations.AlarmReadCompletes : Prop :=
  ∀ (s : State) (v : Variant) (a : DevAddr), s.life = .ready → s.chip = some v → s.devAddr = some a →
    EncodesAs .almRead ⟨0x19, 0, 0, 0, 0, 0, 0⟩ .none ∧
    (v ≠ .pcf8523 → exec .almRead s = .next (s.respond (.error .cap))) ∧
    (v = .pcf8523 → s.nextEvent.answer = .ok →
      ∃ al, exec .almRead s = .next (((s.afterRead a 0x0A 4).reserve 4).respond (.ok (.alarmFields al))) ∧
        AlarmDecodesTo s.params (s.draws + 4) (s.answer 0x0A 4) al) ∧
    (v = .pcf8523 → ∀ e landed, s.nextEvent.answer = .fail e landed →
      exec .almRead s = .next ((s.afterFailedRead a 0x0A 4 e).respond (.error (.xport e))))

/-- 44_bus_operations.md R220: `ALM.WRITE`, one write of 4 registers.
That a failed write changes no register outside its run is the model's choice (DEDUCED, log entry 14). -/
def Obligations.AlarmWriteCompletes : Prop :=
  ∀ (s : State) (v : Variant) (a : DevAddr) (al : AlarmFields), s.life = .ready → s.chip = some v →
    s.devAddr = some a →
    EncodesAs (.almWrite al) ⟨0x1A, 0, 0, 0, 0, 0, 0⟩ (.alarmFields al) ∧
    (v ≠ .pcf8523 → exec (.almWrite al) s = .next (s.respond (.error .cap))) ∧
    (v = .pcf8523 → ∃ bs, AlarmEncodesTo s.draws al bs ∧
      (s.nextEvent.answer = .ok →
        exec (.almWrite al) s = .next (((s.reserve 4).afterWrite a 0x0A bs).respond (.ok .none))) ∧
      (∀ e landed, s.nextEvent.answer = .fail e landed →
        exec (.almWrite al) s =
          .next (((s.reserve 4).afterFailedWrite a 0x0A bs e landed).respond (.error (.xport e)))))

/-- 44_bus_operations.md R221: under the simulator oracle, an alarm whose set fields are in 0 to 79 reads back as
written. -/
def Obligations.AlarmReadsBackAsWritten : Prop :=
  ∀ (s : State) (a : DevAddr) (al : AlarmFields), s.life = .ready → s.chip = some .pcf8523 →
    s.devAddr = some a → s.bus = [] → alarmOnWire al →
    ∃ t u, exec (.almWrite al) s = .next t ∧ exec .almRead t = .next u ∧
      u.responses = t.responses ++ [.ok (.alarmFields al)]

/-- 44_bus_operations.md R222, R223, R224: `RESET`.
That a failed write changes no register outside its run is the model's choice (DEDUCED, log entry 14). -/
def Obligations.SoftwareResetCompletes : Prop :=
  ∀ (s : State) (v : Variant) (a : DevAddr), s.life = .ready → s.chip = some v → s.devAddr = some a →
    EncodesAs .reset ⟨0x1B, 0, 0, 0, 0, 0, 0⟩ .none ∧
    (v ≠ .pcf8523 → exec .reset s = .next (s.respond (.error .cap))) ∧
    (v = .pcf8523 → s.nextEvent.answer = .ok → s.takeEvent.nextEvent.answer = .ok →
      s.takeEvent.takeEvent.nextEvent.answer = .ok →
      exec .reset s =
        .next (((s.afterWrite a 0x00 [0x58]).afterRmw a 0x02 fun x => x &&& 0x1F).respond (.ok .none))) ∧
    (v = .pcf8523 → ∀ e landed, s.nextEvent.answer = .fail e landed →
      exec .reset s = .next ((s.afterFailedWrite a 0x00 [0x58] e landed).respond (.error (.xport e)))) ∧
    (v = .pcf8523 → ∀ e landed, s.nextEvent.answer = .ok → s.takeEvent.nextEvent.answer = .fail e landed →
      exec .reset s =
        .next (((s.afterWrite a 0x00 [0x58]).afterFailedRead a 0x02 1 e).respond (.error (.xport e)))) ∧
    (v = .pcf8523 → ∀ e landed, s.nextEvent.answer = .ok → s.takeEvent.nextEvent.answer = .ok →
      s.takeEvent.takeEvent.nextEvent.answer = .fail e landed →
      exec .reset s =
        .next ((((s.afterWrite a 0x00 [0x58]).afterRead a 0x02 1).afterFailedWrite a 0x02
          [(s.afterWrite a 0x00 [0x58]).answerByte 0x02 &&& 0x1F] e landed).respond (.error (.xport e))))

/-! ### Whole-machine rules -/

/-- 10_state.md R22 to R25, R30, 20_memory.md R50, 43_register_map.md R171: the invariant of every state between
steps is kept by every step, of every state, under every environment. -/
def Obligations.StepKeepsInvariant : Prop := ∀ s t : State, Inv s → step s = .next t → Inv t

/-- 10_state.md R35, 70_reset_and_hazards.md R290: what reset leaves; and it meets the invariant. Two parts are the
model's choice, not the spec's: that no device register is listed (DESIGN CHOICE, log entry 3), and the invariant's
part about the tables, which speaks of the default parameters reset holds (DESIGN CHOICE, log entry 8) and so of the
default DS1307 and DS3231 rows, which are general knowledge (PRESUMED, log entry 5; 43_register_map.md R175). -/
def Obligations.ResetStateIsUnbound : Prop :=
  State.reset.life = .unbound ∧ State.reset.chip = none ∧ State.reset.devAddr = none ∧
  State.reset.rmwLocal = none ∧ State.reset.dev = [] ∧ Inv State.reset

/-- 60_exceptions.md R260, R262: every command ends with one response, whose status is one its row allows. -/
def Obligations.EveryCommandEndsWithAnAllowedStatus : Prop :=
  ∀ (i : Instr) (s t : State), i.wf = true → exec i s = .next t →
    ∃ r, t.responses = s.responses ++ [r] ∧ r.status ∈ allowedStatuses i

/-- 60_exceptions.md R261, R263: an error status decided before the first transaction leaves everything as it
was; `E_XPORT` leaves BCDC's own state as it was; `E_PATTERN` follows a read only. -/
def Obligations.ErrorsLeaveTheirEffectsOnly : Prop :=
  ∀ (i : Instr) (s t : State) (e : Err), exec i s = .next t → t.responses = s.responses ++ [.error e] →
    (e.code ∈ [1, 2, 3, 6, 7, 8] → t = s.respond (.error e)) ∧
    (e.code = 4 → t.life = s.life ∧ t.chip = s.chip ∧ t.devAddr = s.devAddr ∧ t.params = s.params) ∧
    (e.code = 5 → t.life = s.life ∧ t.chip = s.chip ∧ t.devAddr = s.devAddr ∧ t.params = s.params ∧
      (t.dev = s.dev ∨ t.dev = s.takeEvent.dev))

/-- 10_state.md R24, 60_exceptions.md R261: an `UNBOUND` block answers every bus command but `BIND` with
`E_UNBOUND`, without a transaction. -/
def Obligations.UnboundBusCommandsAreRejected : Prop :=
  ∀ (i : Instr) (s : State), s.life = .unbound → needsBinding i = true →
    exec i s = .next (s.respond (.error .unbound))

/-- 10_state.md R22 to R25: CHIP, DEVADDR and LIFE are written by a successful `BIND` of an unbound block and by
no other command. -/
def Obligations.OnlySuccessfulBindWritesTheBinding : Prop :=
  ∀ (i : Instr) (s t : State), exec i s = .next t →
    (t.life = s.life ∧ t.chip = s.chip ∧ t.devAddr = s.devAddr) ∨
    (∃ v a, i = .bind v a ∧ s.life = .unbound ∧ t.life = .ready ∧ t.chip = some v ∧ t.devAddr = some a ∧
      t.responses = s.responses ++ [.ok .none])

/-- 10_state.md R26: no step changes the configuration. -/
def Obligations.ConfigurationNeverChanges : Prop := ∀ s t : State, step s = .next t → t.params = s.params

/-- 20_memory.md R61: the transactions a command issues are those of its row, in order, up to the first that
fails; a command that ends with `OK` has issued all of them. -/
def Obligations.TransactionsFollowTheirPlan : Prop :=
  ∀ (i : Instr) (s t : State), exec i s = .next t →
    ∃ trs, t.trace = s.trace ++ trs ∧ trs.map Transaction.planned <+: busPlan s.params s.chip i ∧
      (∀ v, t.responses = s.responses ++ [.ok v] → trs.map Transaction.planned = busPlan s.params s.chip i)

/-- 10_state.md R23, 44_bus_operations.md R200: every transaction carries DEVADDR, and those of `BIND` the
payload's address. 20_memory.md R60: none is of no registers or would pass 0xFF. -/
def Obligations.TransactionsAddressTheDeviceWithinItsRegisters : Prop :=
  ∀ (i : Instr) (s t : State), exec i s = .next t →
    ∃ trs, t.trace = s.trace ++ trs ∧ ∀ x ∈ trs,
      ((∃ v, i = .bind v x.addr) ∨ (needsBinding i = true ∧ s.devAddr = some x.addr)) ∧
      match x.planned with
      | .read r n => 1 ≤ n ∧ r.toNat + n ≤ 256
      | .write r n => 1 ≤ n ∧ r.toNat + n ≤ 256

/-- 20_memory.md R54: a transport failure ends the command at once with `E_XPORT`, its information unchanged, and
nothing else does. -/
def Obligations.TransportFailureEndsTheCommand : Prop :=
  ∀ (i : Instr) (s t : State), exec i s = .next t →
    ∃ trs r, t.trace = s.trace ++ trs ∧ t.responses = s.responses ++ [r] ∧
      (∀ e, r = .error (.xport e) →
        ∃ before last, trs = before ++ [last] ∧ last.failure = some e ∧ ∀ x ∈ before, x.failure = none) ∧
      ((∀ e, r ≠ .error (.xport e)) → ∀ x ∈ trs, x.failure = none)

/-- 70_reset_and_hazards.md R305: a transport that answers every transaction lets every command end with a
response; the only way a command can stop is a transaction that is never answered. -/
def Obligations.EveryCommandEndsIfTheTransportAnswers : Prop :=
  (∀ (i : Instr) (s : State), s.transportAnswers →
    ∃ t r, exec i s = .next t ∧ t.responses = s.responses ++ [r]) ∧
  (∀ (i : Instr) (s : State) (f : Fault), exec i s = .fault f →
    f = .transportNeverAnswers ∧ ∃ e ∈ s.bus, e.answer = .never) ∧
  (∀ (i : Instr) (s : State) (r : Refusal), exec i s ≠ .refused r)

/-- 20_memory.md R61, R64: while the environment changes nothing, a command leaves the contents of every device
register that its row does not write, whether it succeeds or fails. For a command whose write fails this is the
model's choice (DEDUCED, log entry 14): R61, R64 and R224 do not say that a failed write leaves the registers
outside its run. -/
def Obligations.CommandsStoreOnlyToTheirRegisters : Prop :=
  ∀ (i : Instr) (s t : State), s.undisturbed → exec i s = .next t →
    ∀ q : Nat, (∀ x ∈ busPlan s.params s.chip i, ¬x.writes q) → t.dev.read q = s.dev.read q

/-- 30_encoding.md R83, 60_exceptions.md R261: a pure command changes nothing but the list of responses (and the
model's count of free values), and its response does not depend on the binding or on the device. -/
def Obligations.PureCommandsReadAndTouchNothing : Prop :=
  ∀ (i : Instr) (s s' : State), isBusCommand i = false → s'.params = s.params → s'.draws = s.draws →
    ∃ r n, exec i s = .next ((s.reserve n).respond r) ∧ exec i s' = .next ((s'.reserve n).respond r)

/-- 10_state.md R27, R28: no command reads back a response, a transaction or a byte held by an earlier command:
two states that differ only in those behave alike. -/
def Obligations.CommandsDoNotReadTheirPast : Prop :=
  ∀ (i : Instr) (s t : State) (x : Option Byte) (rs : List Response) (tr : List Transaction),
    exec i s = .next t →
    ∃ r trs, t.responses = s.responses ++ [r] ∧ t.trace = s.trace ++ trs ∧
      exec i { s with rmwLocal := x, responses := rs, trace := tr } =
        .next { t with responses := rs ++ [r], trace := tr ++ trs }

/-- 30_encoding.md R91, R87, R92: a mnemonic and operands assemble to an instruction exactly when it is the
well-formed instruction of that mnemonic whose operands, in R91's order, they are; and every well-formed
instruction can be written. -/
def Obligations.AssemblerReachesExactlyTheWellFormedInstructions : Prop :=
  (∀ (op : Opcode) (args : List AsmOperand) (i : Instr),
    assemble op args = some i ↔ i.opcode = op ∧ i.wf = true ∧ WrittenAs i args) ∧
  (∀ i : Instr, i.wf = true → ∃ args, assemble i.opcode args = some i)
end

