-- ==== Sys2Proof/Laws/Assembler.lean ====
section
/-! SUPPORT. What each operand form of the assembler accepts, as one equivalence per form. -/

namespace Sys2Proof.Machine

@[simp] theorem numberByte_eq_some (n : Int) (b : Byte) : numberByte n = some b ↔ AsmOperand.number n = byteOperand b := by
  have hb := b.isLt
  simp only [numberByte, byteOperand, AsmOperand.number.injEq]
  constructor
  · intro h
    split at h
    · rename_i hn
      cases h
      rw [BitVec.toNat_ofInt]
      omega
    · cases h
  · rintro rfl
    rw [if_pos (by omega), BitVec.ofInt_natCast, BitVec.ofNat_toNat, BitVec.setWidth_eq]

@[simp] theorem numberInt32_eq_some (n : Int) (v : INT32) :
    numberInt32 n = some v ↔ AsmOperand.number n = intOperand v := by
  have h1 := v.toInt_lt
  have h2 := v.le_toInt
  simp only [numberInt32, intOperand, AsmOperand.number.injEq, INT32.holds]
  constructor
  · intro h
    split at h
    · rename_i hn
      cases h
      rw [BitVec.toInt_ofInt, Int.bmod_eq_of_le] <;> omega
    · cases h
  · rintro rfl
    rw [if_pos (by omega), BitVec.ofInt_toInt]

@[simp] theorem numberFlag_eq_some (n : Int) (v : Bool) :
    numberFlag n = some v ↔ AsmOperand.number n = flagOperand v := by
  simp only [numberFlag, flagOperand, AsmOperand.number.injEq]
  cases v <;> by_cases h0 : n = 0 <;> by_cases h1 : n = 1 <;> simp [h0, h1]

/-- A field left out of a written date/time is 0. -/
theorem getD_zero_eq (o : Option INT32) (v : INT32) : o.getD 0 = v ↔ o = some v ∨ o = none ∧ v = 0 := by
  cases o with
  | none => simpa using eq_comm
  | some x => simp

@[simp] theorem dateTextValue_eq (t : DateText) (dt : DateTime) : dateTextValue t = dt ↔ t.StandsFor dt := by
  cases dt
  simp only [dateTextValue, DateText.StandsFor, DateTime.mk.injEq, getD_zero_eq]

/-- Every date/time can be written. -/
theorem DateText.standsFor_all_fields (dt : DateTime) :
    (⟨dt.year, dt.month, dt.day, some dt.weekday, some dt.hour, some dt.minute, some dt.second,
      some dt.millisecond⟩ : DateText).StandsFor dt := by
  simp [DateText.StandsFor]

/-- R91: every instruction can be written. -/
theorem exists_writtenAs (i : Instr) : ∃ args, WrittenAs i args := by
  cases i <;> first
    | exact ⟨_, rfl⟩
    | exact ⟨_, _, rfl, DateText.standsFor_all_fields _⟩

end Sys2Proof.Machine
end

