-- ==== Sys2Proof/Laws/Codec.lean ====
section
/-! SUPPORT. What each codec operation gives, said once (40_bcd_codec.md rules R100 and R101, 41_record_codec.md
rules R120 to R123, 42_flag_composition.md rule R141). -/

namespace Sys2Proof.Machine

theorem digitValid_iff (b : Byte) : digitValid b = true ↔ (b.toNat / 16 ≤ 9 ∧ b.toNat % 16 ≤ 9) := by
  unfold digitValid highNibble lowNibble
  simp

theorem digitValid_false_iff (b : Byte) : digitValid b = false ↔ ¬(b.toNat / 16 ≤ 9 ∧ b.toNat % 16 ≤ 9) := by
  rw [← digitValid_iff]
  simp

/-- R100: everything `bcdDecode` gives. -/
theorem bcdDecode_decodesTo (p : Params) (n : Nat) (b : Byte) : DecodesTo p n b (bcdDecode p n b) := by
  have hf : (BitVec.ofInt 32 (bcdFormula b)).toInt = bcdFormula b := by
    rw [BitVec.toInt_ofInt]
    apply Int.bmod_eq_of_le <;> simp [bcdFormula, highNibble] <;> omega
  refine ⟨fun h => ?_, fun h => ?_, ?_⟩
  · simp only [bcdDecode, (digitValid_iff b).2 h, if_true, hf]
    simp only [bcdFormula, highNibble]
    omega
  · simp only [bcdDecode, h]
    split <;> rw [hf] <;> simp [bcdFormula, highNibble, Nat.shiftRight_eq_div_pow]
  · rintro ⟨h, ha⟩
    simp [bcdDecode, (digitValid_false_iff b).2 h, ha]

/-- R101: everything `bcdEncode` gives. -/
theorem bcdEncode_encodesTo (n : Nat) (v : Int) : EncodesTo n v (bcdEncode n v) := by
  refine ⟨fun h => ?_, fun h => by simp only [bcdEncode, h, if_false]⟩
  simp only [bcdEncode, h, and_self, if_true, BitVec.toNat_ofInt]
  omega

/-- R120: everything `dateTimeDecode` gives. -/
theorem dateTimeDecode_blockDecodesTo (p : Params) (n : Nat) (b : Fin 7 → Byte) :
    BlockDecodesTo p n b (dateTimeDecode p n (b 0) (b 1) (b 2) (b 3) (b 4) (b 5) (b 6)) := by
  refine ⟨bcdDecode_decodesTo .., bcdDecode_decodesTo .., bcdDecode_decodesTo .., bcdDecode_decodesTo ..,
    bcdDecode_decodesTo .., bcdDecode_decodesTo .., ⟨_, bcdDecode_decodesTo .., fun h => ?_⟩, rfl⟩
  simp only [dateTimeDecode, yearDecode]
  rw [if_pos h, BitVec.toInt_ofInt]
  simp only [INT32.holds] at h
  apply Int.bmod_eq_of_le <;> omega

/-- R121: everything `dateTimeEncode` gives. -/
theorem dateTimeEncode_blockEncodesTo (n : Nat) (dt : DateTime) : BlockEncodesTo n dt (dateTimeEncode n dt) :=
  ⟨_, _, _, _, _, _, _, rfl, bcdEncode_encodesTo .., bcdEncode_encodesTo .., bcdEncode_encodesTo ..,
    bcdEncode_encodesTo .., bcdEncode_encodesTo .., bcdEncode_encodesTo .., bcdEncode_encodesTo ..⟩

theorem dateTimeEncode_length (n : Nat) (dt : DateTime) : (dateTimeEncode n dt).length = 7 := rfl

theorem alarmEncode_length (n : Nat) (al : AlarmFields) : (alarmEncode n al).length = 4 := rfl

/-- R122: everything `alarmFieldDecode` gives. -/
theorem alarmFieldDecode_fieldDecodesTo (p : Params) (n : Nat) (x : Byte) :
    FieldDecodesTo p n x (alarmFieldDecode p n x) := by
  have key : ∀ x : Byte, (x &&& 0x80 ≠ 0) ↔ x.getLsbD 7 = true := by decide
  refine ⟨fun h => ?_, fun h => ⟨_, ?_, bcdDecode_decodesTo ..⟩⟩ <;> unfold alarmFieldDecode
  · rw [if_pos ((key x).2 h)]
  · rw [if_neg (by rw [key, h]; simp)]

/-- R123: everything `alarmFieldEncode` gives. -/
theorem alarmFieldEncode_fieldEncodesTo (n : Nat) (disabled : Byte) (o : Option INT32) :
    FieldEncodesTo n disabled o (alarmFieldEncode n disabled o) := by
  refine ⟨?_, ?_⟩
  · rintro rfl
    rfl
  · rintro v rfl
    exact bcdEncode_encodesTo ..

/-- R141: the complement of a mask, as the spec writes it. -/
theorem flagMerge_eq (b m : Byte) (v : Bool) :
    flagMerge b m v = if v then b ||| m else b &&& (0xFF ^^^ m) := by
  have : 0xFF ^^^ m = ~~~m := by
    revert m
    decide
  rw [this]
  rfl

end Sys2Proof.Machine
end

