-- ==== Sys2Proof/Laws/Memory.lean ====
section
/-! SUPPORT. The device register file: a read gives what was last written, a write leaves every other register
alone, and every operation keeps the canonical form (20_memory.md rules R50 to R57). -/

namespace Sys2Proof.Machine

@[simp] theorem Memory.read_nil (a : Nat) : Memory.read [] a = none := rfl

/-- R55: the register written holds the byte. -/
@[simp] theorem Memory.read_write_same (m : Memory) (a : Nat) (b : Byte) : (Memory.write m a b).read a = some b := by
  induction m with
  | nil => simp [Memory.write, Memory.read]
  | cons c m ih =>
    obtain ⟨k, x⟩ := c
    simp only [Memory.write]
    split
    · simp [Memory.read]
    · split
      · simp [Memory.read]
      · have : k ≠ a := by omega
        simp [Memory.read, this, ih]

/-- R55: nothing else changes. -/
theorem Memory.read_write_other (m : Memory) {a a' : Nat} (b : Byte) (h : a' ≠ a) :
    (Memory.write m a b).read a' = m.read a' := by
  induction m with
  | nil => simp [Memory.write, Memory.read, Ne.symm h]
  | cons c m ih =>
    obtain ⟨k, x⟩ := c
    simp only [Memory.write]
    split
    · simp [Memory.read, Ne.symm h]
    · split
      · subst k
        simp [Memory.read, Ne.symm h]
      · simp [Memory.read, ih]

/-- Registers outside a run are left alone. -/
theorem Memory.read_writeBytes_other (bs : List Byte) :
    ∀ (m : Memory) (a a' : Nat), a' < a ∨ a + bs.length ≤ a' → (Memory.writeBytes m a bs).read a' = m.read a' := by
  induction bs with
  | nil => intro m a a' _; rfl
  | cons b bs ih =>
    intro m a a' h
    simp only [List.length_cons] at h
    rw [Memory.writeBytes, ih _ _ _ (by omega), Memory.read_write_other _ _ (by omega)]

/-- R57: register `a + i` holds element i. -/
theorem Memory.read_writeBytes_at (bs : List Byte) :
    ∀ (m : Memory) (a i : Nat) (h : i < bs.length), (Memory.writeBytes m a bs).read (a + i) = some bs[i] := by
  induction bs with
  | nil => intro m a i h; simp at h
  | cons b bs ih =>
    intro m a i h
    cases i with
    | zero =>
      rw [Memory.writeBytes, Memory.read_writeBytes_other _ _ _ _ (by omega)]
      simp
    | succ i =>
      have := ih (Memory.write m a b) (a + 1) i (by simpa using h)
      rw [Memory.writeBytes, show a + (i + 1) = a + 1 + i by omega, this]
      simp

/-- R224: a failed write leaves registers outside its run alone. -/
theorem Memory.read_writeLanded_other (bs : List Byte) :
    ∀ (ls : List Bool) (m : Memory) (a a' : Nat), a' < a ∨ a + bs.length ≤ a' →
      (Memory.writeLanded m a bs ls).read a' = m.read a' := by
  induction bs with
  | nil => intro ls m a a' _; rfl
  | cons b bs ih =>
    intro ls m a a' h
    simp only [List.length_cons] at h
    cases ls with
    | nil => rfl
    | cons l ls =>
      rw [Memory.writeLanded, ih _ _ _ _ (by omega)]
      split
      · exact Memory.read_write_other _ _ (by omega)
      · rfl

/-- R224: after a failed write each register of its run holds its old contents or the byte sent to it. -/
theorem Memory.read_writeLanded_at (bs : List Byte) :
    ∀ (ls : List Bool) (m : Memory) (a i : Nat) (h : i < bs.length),
      (Memory.writeLanded m a bs ls).read (a + i) = m.read (a + i) ∨
      (Memory.writeLanded m a bs ls).read (a + i) = some bs[i] := by
  induction bs with
  | nil => intro ls m a i h; simp at h
  | cons b bs ih =>
    intro ls m a i h
    cases ls with
    | nil => exact .inl rfl
    | cons l ls =>
      rw [Memory.writeLanded]
      cases i with
      | zero =>
        rw [Memory.read_writeLanded_other _ _ _ _ _ (by omega)]
        cases l <;> simp
      | succ i =>
        have := ih ls (if l then Memory.write m a b else m) (a + 1) i (by simpa using h)
        rw [show a + 1 + i = a + (i + 1) by omega] at this
        rcases this with this | this
        · refine .inl (this.trans ?_)
          split
          · exact Memory.read_write_other _ _ (by omega)
          · rfl
        · exact .inr (by simpa using this)

/-- A form that holds from a later register on holds from an earlier one. -/
theorem Memory.wfFrom_mono {lo lo' : Nat} {m : Memory} (h : lo' ≤ lo) (hm : Memory.wfFrom lo m = true) :
    Memory.wfFrom lo' m = true := by
  cases m with
  | nil => rfl
  | cons c m =>
    obtain ⟨k, x⟩ := c
    simp only [Memory.wfFrom, Bool.and_eq_true, decide_eq_true_eq] at hm ⊢
    exact ⟨⟨by omega, hm.1.2⟩, hm.2⟩

theorem Memory.wfFrom_write (m : Memory) (a : Nat) (b : Byte) (ha : a < 256) :
    ∀ lo, lo ≤ a → Memory.wfFrom lo m = true → Memory.wfFrom lo (Memory.write m a b) = true := by
  induction m with
  | nil => intro lo h _; simp [Memory.write, Memory.wfFrom, h, ha]
  | cons c m ih =>
    intro lo h hm
    obtain ⟨k, x⟩ := c
    simp only [Memory.wfFrom, Bool.and_eq_true, decide_eq_true_eq] at hm
    simp only [Memory.write]
    split
    · simp only [Memory.wfFrom, Bool.and_eq_true, decide_eq_true_eq]
      exact ⟨⟨h, ha⟩, ⟨by omega, hm.1.2⟩, hm.2⟩
    · split
      · subst k
        simp only [Memory.wfFrom, Bool.and_eq_true, decide_eq_true_eq]
        exact ⟨⟨h, ha⟩, hm.2⟩
      · simp only [Memory.wfFrom, Bool.and_eq_true, decide_eq_true_eq]
        exact ⟨hm.1, ih _ (by omega) hm.2⟩

/-- R50: a write keeps the canonical form. -/
theorem Memory.wf_write {m : Memory} {a : Nat} (b : Byte) (ha : a < 256) (hm : m.wf = true) :
    (Memory.write m a b).wf = true :=
  Memory.wfFrom_write m a b ha 0 (by omega) hm

/-- R50: a run of writes keeps the canonical form. -/
theorem Memory.wf_writeBytes (bs : List Byte) :
    ∀ {m : Memory} {a : Nat}, a + bs.length ≤ 256 → m.wf = true → (Memory.writeBytes m a bs).wf = true := by
  induction bs with
  | nil => intro m a _ h; exact h
  | cons b bs ih =>
    intro m a ha h
    simp only [List.length_cons] at ha
    exact ih (by omega) (Memory.wf_write b (by omega) h)

/-- R224: a write that lands in part keeps the canonical form. -/
theorem Memory.wf_writeLanded (bs : List Byte) :
    ∀ {ls : List Bool} {m : Memory} {a : Nat}, a + bs.length ≤ 256 → m.wf = true →
      (Memory.writeLanded m a bs ls).wf = true := by
  induction bs with
  | nil => intro ls m a _ h; exact h
  | cons b bs ih =>
    intro ls m a ha h
    simp only [List.length_cons] at ha
    cases ls with
    | nil => exact h
    | cons l ls =>
      refine ih (by omega) ?_
      split
      · exact Memory.wf_write b (by omega) h
      · exact h

/-- R62: the environment's changes keep the canonical form. -/
theorem Memory.wf_change (cs : List (RegNum × Byte)) :
    ∀ {m : Memory}, m.wf = true → (Memory.change m cs).wf = true := by
  induction cs with
  | nil => intro m h; exact h
  | cons c cs ih =>
    intro m h
    exact ih (Memory.wf_write _ (by omega) h)

end Sys2Proof.Machine
end

