-- ==== Sys2Proof/Laws/State.lean ====
section
/-! SUPPORT. What each named update of the state does to each field, so that no proof unfolds an update. -/

namespace Sys2Proof.Machine

/-! ### takeEvent: the environment's changes before a transaction take effect -/

@[simp] theorem State.takeEvent_life (s : State) : s.takeEvent.life = s.life := rfl
@[simp] theorem State.takeEvent_chip (s : State) : s.takeEvent.chip = s.chip := rfl
@[simp] theorem State.takeEvent_devAddr (s : State) : s.takeEvent.devAddr = s.devAddr := rfl
@[simp] theorem State.takeEvent_params (s : State) : s.takeEvent.params = s.params := rfl
@[simp] theorem State.takeEvent_rmwLocal (s : State) : s.takeEvent.rmwLocal = s.rmwLocal := rfl
@[simp] theorem State.takeEvent_dev (s : State) : s.takeEvent.dev = s.dev.change s.nextEvent.changes := rfl
@[simp] theorem State.takeEvent_bus (s : State) : s.takeEvent.bus = s.bus.tail := rfl
@[simp] theorem State.takeEvent_host (s : State) : s.takeEvent.host = s.host := rfl
@[simp] theorem State.takeEvent_responses (s : State) : s.takeEvent.responses = s.responses := rfl
@[simp] theorem State.takeEvent_trace (s : State) : s.takeEvent.trace = s.trace := rfl
@[simp] theorem State.takeEvent_draws (s : State) : s.takeEvent.draws = s.draws := rfl

/-! ### reserve: free values are set aside -/

@[simp] theorem State.reserve_life (s : State) (k : Nat) : (s.reserve k).life = s.life := rfl
@[simp] theorem State.reserve_chip (s : State) (k : Nat) : (s.reserve k).chip = s.chip := rfl
@[simp] theorem State.reserve_devAddr (s : State) (k : Nat) : (s.reserve k).devAddr = s.devAddr := rfl
@[simp] theorem State.reserve_params (s : State) (k : Nat) : (s.reserve k).params = s.params := rfl
@[simp] theorem State.reserve_rmwLocal (s : State) (k : Nat) : (s.reserve k).rmwLocal = s.rmwLocal := rfl
@[simp] theorem State.reserve_dev (s : State) (k : Nat) : (s.reserve k).dev = s.dev := rfl
@[simp] theorem State.reserve_bus (s : State) (k : Nat) : (s.reserve k).bus = s.bus := rfl
@[simp] theorem State.reserve_host (s : State) (k : Nat) : (s.reserve k).host = s.host := rfl
@[simp] theorem State.reserve_responses (s : State) (k : Nat) : (s.reserve k).responses = s.responses := rfl
@[simp] theorem State.reserve_trace (s : State) (k : Nat) : (s.reserve k).trace = s.trace := rfl
@[simp] theorem State.reserve_draws (s : State) (k : Nat) : (s.reserve k).draws = s.draws + k := rfl

/-! ### record: a transaction joins the trace -/

@[simp] theorem State.record_life (s : State) (x : Transaction) : (s.record x).life = s.life := rfl
@[simp] theorem State.record_chip (s : State) (x : Transaction) : (s.record x).chip = s.chip := rfl
@[simp] theorem State.record_devAddr (s : State) (x : Transaction) : (s.record x).devAddr = s.devAddr := rfl
@[simp] theorem State.record_params (s : State) (x : Transaction) : (s.record x).params = s.params := rfl
@[simp] theorem State.record_rmwLocal (s : State) (x : Transaction) : (s.record x).rmwLocal = s.rmwLocal := rfl
@[simp] theorem State.record_dev (s : State) (x : Transaction) : (s.record x).dev = s.dev := rfl
@[simp] theorem State.record_bus (s : State) (x : Transaction) : (s.record x).bus = s.bus := rfl
@[simp] theorem State.record_host (s : State) (x : Transaction) : (s.record x).host = s.host := rfl
@[simp] theorem State.record_responses (s : State) (x : Transaction) : (s.record x).responses = s.responses := rfl
@[simp] theorem State.record_trace (s : State) (x : Transaction) : (s.record x).trace = s.trace ++ [x] := rfl
@[simp] theorem State.record_draws (s : State) (x : Transaction) : (s.record x).draws = s.draws := rfl

/-! ### setDev: the device register file is replaced -/

@[simp] theorem State.setDev_life (s : State) (m : Memory) : (s.setDev m).life = s.life := rfl
@[simp] theorem State.setDev_chip (s : State) (m : Memory) : (s.setDev m).chip = s.chip := rfl
@[simp] theorem State.setDev_devAddr (s : State) (m : Memory) : (s.setDev m).devAddr = s.devAddr := rfl
@[simp] theorem State.setDev_params (s : State) (m : Memory) : (s.setDev m).params = s.params := rfl
@[simp] theorem State.setDev_rmwLocal (s : State) (m : Memory) : (s.setDev m).rmwLocal = s.rmwLocal := rfl
@[simp] theorem State.setDev_dev (s : State) (m : Memory) : (s.setDev m).dev = m := rfl
@[simp] theorem State.setDev_bus (s : State) (m : Memory) : (s.setDev m).bus = s.bus := rfl
@[simp] theorem State.setDev_host (s : State) (m : Memory) : (s.setDev m).host = s.host := rfl
@[simp] theorem State.setDev_responses (s : State) (m : Memory) : (s.setDev m).responses = s.responses := rfl
@[simp] theorem State.setDev_trace (s : State) (m : Memory) : (s.setDev m).trace = s.trace := rfl
@[simp] theorem State.setDev_draws (s : State) (m : Memory) : (s.setDev m).draws = s.draws := rfl

/-! ### hold: a byte is held or let go -/

@[simp] theorem State.hold_life (s : State) (x : Option Byte) : (s.hold x).life = s.life := rfl
@[simp] theorem State.hold_chip (s : State) (x : Option Byte) : (s.hold x).chip = s.chip := rfl
@[simp] theorem State.hold_devAddr (s : State) (x : Option Byte) : (s.hold x).devAddr = s.devAddr := rfl
@[simp] theorem State.hold_params (s : State) (x : Option Byte) : (s.hold x).params = s.params := rfl
@[simp] theorem State.hold_rmwLocal (s : State) (x : Option Byte) : (s.hold x).rmwLocal = x := rfl
@[simp] theorem State.hold_dev (s : State) (x : Option Byte) : (s.hold x).dev = s.dev := rfl
@[simp] theorem State.hold_bus (s : State) (x : Option Byte) : (s.hold x).bus = s.bus := rfl
@[simp] theorem State.hold_host (s : State) (x : Option Byte) : (s.hold x).host = s.host := rfl
@[simp] theorem State.hold_responses (s : State) (x : Option Byte) : (s.hold x).responses = s.responses := rfl
@[simp] theorem State.hold_trace (s : State) (x : Option Byte) : (s.hold x).trace = s.trace := rfl
@[simp] theorem State.hold_draws (s : State) (x : Option Byte) : (s.hold x).draws = s.draws := rfl

/-! ### commit: the binding registers are written -/

@[simp] theorem State.commit_life (s : State) (v : Variant) (a : DevAddr) : (s.commit v a).life = .ready := rfl
@[simp] theorem State.commit_chip (s : State) (v : Variant) (a : DevAddr) : (s.commit v a).chip = some v := rfl
@[simp] theorem State.commit_devAddr (s : State) (v : Variant) (a : DevAddr) : (s.commit v a).devAddr = some a := rfl
@[simp] theorem State.commit_params (s : State) (v : Variant) (a : DevAddr) : (s.commit v a).params = s.params := rfl
@[simp] theorem State.commit_rmwLocal (s : State) (v : Variant) (a : DevAddr) : (s.commit v a).rmwLocal = s.rmwLocal := rfl
@[simp] theorem State.commit_dev (s : State) (v : Variant) (a : DevAddr) : (s.commit v a).dev = s.dev := rfl
@[simp] theorem State.commit_bus (s : State) (v : Variant) (a : DevAddr) : (s.commit v a).bus = s.bus := rfl
@[simp] theorem State.commit_host (s : State) (v : Variant) (a : DevAddr) : (s.commit v a).host = s.host := rfl
@[simp] theorem State.commit_responses (s : State) (v : Variant) (a : DevAddr) : (s.commit v a).responses = s.responses := rfl
@[simp] theorem State.commit_trace (s : State) (v : Variant) (a : DevAddr) : (s.commit v a).trace = s.trace := rfl
@[simp] theorem State.commit_draws (s : State) (v : Variant) (a : DevAddr) : (s.commit v a).draws = s.draws := rfl

/-! ### respond: a command ends with its response -/

@[simp] theorem State.respond_life (s : State) (r : Response) : (s.respond r).life = s.life := rfl
@[simp] theorem State.respond_chip (s : State) (r : Response) : (s.respond r).chip = s.chip := rfl
@[simp] theorem State.respond_devAddr (s : State) (r : Response) : (s.respond r).devAddr = s.devAddr := rfl
@[simp] theorem State.respond_params (s : State) (r : Response) : (s.respond r).params = s.params := rfl
@[simp] theorem State.respond_rmwLocal (s : State) (r : Response) : (s.respond r).rmwLocal = none := rfl
@[simp] theorem State.respond_dev (s : State) (r : Response) : (s.respond r).dev = s.dev := rfl
@[simp] theorem State.respond_bus (s : State) (r : Response) : (s.respond r).bus = s.bus := rfl
@[simp] theorem State.respond_host (s : State) (r : Response) : (s.respond r).host = s.host := rfl
@[simp] theorem State.respond_responses (s : State) (r : Response) : (s.respond r).responses = s.responses ++ [r] := rfl
@[simp] theorem State.respond_trace (s : State) (r : Response) : (s.respond r).trace = s.trace := rfl
@[simp] theorem State.respond_draws (s : State) (r : Response) : (s.respond r).draws = s.draws := rfl

/-! ### blockReset: the block's reset input -/

@[simp] theorem State.blockReset_life (s : State) : s.blockReset.life = .unbound := rfl
@[simp] theorem State.blockReset_chip (s : State) : s.blockReset.chip = none := rfl
@[simp] theorem State.blockReset_devAddr (s : State) : s.blockReset.devAddr = none := rfl
@[simp] theorem State.blockReset_params (s : State) : s.blockReset.params = s.params := rfl
@[simp] theorem State.blockReset_rmwLocal (s : State) : s.blockReset.rmwLocal = none := rfl
@[simp] theorem State.blockReset_dev (s : State) : s.blockReset.dev = s.dev := rfl
@[simp] theorem State.blockReset_bus (s : State) : s.blockReset.bus = s.bus := rfl
@[simp] theorem State.blockReset_host (s : State) : s.blockReset.host = s.host := rfl
@[simp] theorem State.blockReset_responses (s : State) : s.blockReset.responses = s.responses := rfl
@[simp] theorem State.blockReset_trace (s : State) : s.blockReset.trace = s.trace := rfl
@[simp] theorem State.blockReset_draws (s : State) : s.blockReset.draws = s.draws := rfl

/-! ### What the updates leave of the derived reads -/

@[simp] theorem State.takeEvent_binding (s : State) : s.takeEvent.binding = s.binding := rfl
@[simp] theorem State.reserve_binding (s : State) (k : Nat) : (s.reserve k).binding = s.binding := rfl
@[simp] theorem State.reserve_nextEvent (s : State) (k : Nat) : (s.reserve k).nextEvent = s.nextEvent := rfl
@[simp] theorem State.reserve_oracle (s : State) (k : Nat) (n q : Nat) : (s.reserve k).oracle n q = s.oracle n q := rfl
@[simp] theorem State.record_binding (s : State) (x : Transaction) : (s.record x).binding = s.binding := rfl
@[simp] theorem State.record_nextEvent (s : State) (x : Transaction) : (s.record x).nextEvent = s.nextEvent := rfl
@[simp] theorem State.record_oracle (s : State) (x : Transaction) (n q : Nat) : (s.record x).oracle n q = s.oracle n q := rfl
@[simp] theorem State.setDev_binding (s : State) (m : Memory) : (s.setDev m).binding = s.binding := rfl
@[simp] theorem State.setDev_nextEvent (s : State) (m : Memory) : (s.setDev m).nextEvent = s.nextEvent := rfl
@[simp] theorem State.hold_binding (s : State) (x : Option Byte) : (s.hold x).binding = s.binding := rfl
@[simp] theorem State.hold_nextEvent (s : State) (x : Option Byte) : (s.hold x).nextEvent = s.nextEvent := rfl
@[simp] theorem State.hold_oracle (s : State) (x : Option Byte) (n q : Nat) : (s.hold x).oracle n q = s.oracle n q := rfl
@[simp] theorem State.commit_nextEvent (s : State) (v : Variant) (a : DevAddr) : (s.commit v a).nextEvent = s.nextEvent := rfl
@[simp] theorem State.commit_oracle (s : State) (v : Variant) (a : DevAddr) (n q : Nat) : (s.commit v a).oracle n q = s.oracle n q := rfl
@[simp] theorem State.respond_binding (s : State) (r : Response) : (s.respond r).binding = s.binding := rfl
@[simp] theorem State.respond_nextEvent (s : State) (r : Response) : (s.respond r).nextEvent = s.nextEvent := rfl
@[simp] theorem State.respond_oracle (s : State) (r : Response) (n q : Nat) : (s.respond r).oracle n q = s.oracle n q := rfl
@[simp] theorem State.blockReset_nextEvent (s : State) : s.blockReset.nextEvent = s.nextEvent := rfl
@[simp] theorem State.blockReset_oracle (s : State) (n q : Nat) : s.blockReset.oracle n q = s.oracle n q := rfl

@[simp] theorem State.commit_binding (s : State) (v : Variant) (a : DevAddr) :
    (s.commit v a).binding = some ⟨v, a⟩ := rfl

@[simp] theorem State.blockReset_binding (s : State) : s.blockReset.binding = none := rfl

/-- Where the contents of a register are given, the device answers with them. -/
theorem State.oracle_of_given {s : State} {r : Nat} {x : Byte} (h : s.dev.read r = some x) (n : Nat) :
    s.oracle n r = x := by
  simp [State.oracle, h]

/-- With nothing left in the schedule the next transaction is the simulator oracle's. -/
@[simp] theorem State.nextEvent_of_no_schedule {s : State} (h : s.bus = []) : s.nextEvent = quietEvent := by
  simp [State.nextEvent, h]

/-- A quiet event changes nothing on the device. -/
@[simp] theorem quietEvent_changes : quietEvent.changes = [] := rfl

@[simp] theorem quietEvent_answer : quietEvent.answer = .ok := rfl

/-- With nothing left in the schedule, taking an event changes nothing. -/
theorem State.takeEvent_of_no_schedule {s : State} (h : s.bus = []) : s.takeEvent = s := by
  cases s
  simp_all [State.takeEvent, State.nextEvent, Memory.change]

/-- A `READY` block with a variant and an address is bound to them. -/
theorem State.binding_of_ready {s : State} {v : Variant} {a : DevAddr} (hl : s.life = .ready)
    (hc : s.chip = some v) (ha : s.devAddr = some a) : s.binding = some ⟨v, a⟩ := by
  simp [State.binding, hl, hc, ha]

/-- A bound block is `READY`, with the binding's variant and address. -/
theorem State.ready_of_binding {s : State} {b : Binding} (h : s.binding = some b) :
    s.life = .ready ∧ s.chip = some b.variant ∧ s.devAddr = some b.addr := by
  unfold State.binding at h
  split at h <;> first | contradiction | (cases h; simp_all)

/-- An `UNBOUND` block has no binding. -/
theorem State.binding_of_unbound {s : State} (h : s.life = .unbound) : s.binding = none := by
  simp [State.binding, h]

theorem State.takeInput_nil {s : State} (h : s.host = []) : s.takeInput = none := by
  simp [State.takeInput, h]

theorem State.takeInput_cons {s : State} {x : HostInput} {rest : List HostInput} (h : s.host = x :: rest) :
    s.takeInput = some (x, { s with host := rest }) := by
  simp [State.takeInput, h]

end Sys2Proof.Machine
end

