-- ==== Sys2Proof/Laws/Command.lean ====
section
/-! SUPPORT. Commands as sequences of primitives: what each primitive can do, said once, and how a property of
pieces becomes a property of the whole command. -/

namespace Sys2Proof.Machine

/-! ### Sequencing -/

theorem Cmd.bind_done {α β : Type} {c : Cmd α} {k : α → Cmd β} {s t : State} {a : α} (h : c s = .done a t) :
    (c.bind k) s = k a t := by
  simp [Cmd.bind, h]

theorem Cmd.bind_raised {α β : Type} {c : Cmd α} {k : α → Cmd β} {s t : State} {e : Err}
    (h : c s = .raised e t) : (c.bind k) s = .raised e t := by
  simp [Cmd.bind, h]

theorem Cmd.bind_stopped {α β : Type} {c : Cmd α} {k : α → Cmd β} {s : State} {f : Fault}
    (h : c s = .stopped f) : (c.bind k) s = .stopped f := by
  simp [Cmd.bind, h]

theorem Cmd.run_done {c : Cmd Value} {s t : State} {v : Value} (h : c s = .done v t) :
    Cmd.run c s = .next (t.respond (.ok v)) := by
  simp [Cmd.run, h]

theorem Cmd.run_raised {c : Cmd Value} {s t : State} {e : Err} (h : c s = .raised e t) :
    Cmd.run c s = .next (t.respond (.error e)) := by
  simp [Cmd.run, h]

theorem Cmd.run_stopped {c : Cmd Value} {s : State} {f : Fault} (h : c s = .stopped f) :
    Cmd.run c s = .fault f := by
  simp [Cmd.run, h]

/-- A command that gives a next state ended with a result or with an error. -/
theorem Cmd.run_next {c : Cmd Value} {s t : State} (h : Cmd.run c s = .next t) :
    (∃ v u, c s = .done v u ∧ t = u.respond (.ok v)) ∨ (∃ e u, c s = .raised e u ∧ t = u.respond (.error e)) := by
  unfold Cmd.run at h
  split at h
  · rename_i v u hc
    exact .inl ⟨v, u, hc, by simpa using h.symm⟩
  · rename_i e u hc
    exact .inr ⟨e, u, hc, by simpa using h.symm⟩
  · simp at h

/-! ### Properties of pieces -/

/-- Every way a piece can go on or end in an error relates the state before to the state after by `R`. -/
def Cmd.Keeps {α : Type} (R : State → State → Prop) (c : Cmd α) : Prop :=
  ∀ s, (∀ a t, c s = .done a t → R s t) ∧ (∀ e t, c s = .raised e t → R s t)

theorem Cmd.keeps_ret {α : Type} {R : State → State → Prop} (hr : ∀ s, R s s) (a : α) : Cmd.Keeps R (Cmd.ret a) := by
  intro s
  refine ⟨fun b t h => ?_, fun e t h => ?_⟩ <;> simp only [Cmd.ret] at h <;> cases h
  exact hr s

theorem Cmd.keeps_raise {α : Type} {R : State → State → Prop} (hr : ∀ s, R s s) (e : Err) :
    Cmd.Keeps R (Cmd.raise (α := α) e) := by
  intro s
  refine ⟨fun b t h => ?_, fun e t h => ?_⟩ <;> simp only [Cmd.raise] at h <;> cases h
  exact hr s

theorem Cmd.keeps_bind {α β : Type} {R : State → State → Prop} (ht : ∀ {s t u}, R s t → R t u → R s u)
    {c : Cmd α} {k : α → Cmd β} (hc : Cmd.Keeps R c) (hk : ∀ a, Cmd.Keeps R (k a)) : Cmd.Keeps R (c.bind k) := by
  intro s
  refine ⟨fun b u h => ?_, fun e u h => ?_⟩ <;> unfold Cmd.bind at h <;> split at h
  · rename_i a t hs
    exact ht ((hc s).1 a t hs) ((hk a t).1 b u h)
  · cases h
  · cases h
  · rename_i a t hs
    exact ht ((hc s).1 a t hs) ((hk a t).2 e u h)
  · rename_i e' t hs
    cases h
    exact (hc s).2 _ _ hs
  · cases h

/-- A command whose pieces keep `R` gives a next state that is `R`-related to the start, plus its response. -/
theorem Cmd.next_of_keeps {R : State → State → Prop} {c : Cmd Value} (hc : Cmd.Keeps R c) {s t : State}
    (h : Cmd.run c s = .next t) : ∃ u r, R s u ∧ t = u.respond r := by
  rcases Cmd.run_next h with ⟨v, u, hs, rfl⟩ | ⟨e, u, hs, rfl⟩
  · exact ⟨u, _, (hc s).1 _ _ hs, rfl⟩
  · exact ⟨u, _, (hc s).2 _ _ hs, rfl⟩

/-! ### The states transactions leave, field by field -/

@[simp] theorem State.afterRead_nextEvent (s : State) (a : DevAddr) (reg : RegNum) (n : Nat) :
    (s.afterRead a reg n).nextEvent = s.takeEvent.nextEvent := rfl
@[simp] theorem State.afterRead_life (s : State) (a : DevAddr) (reg : RegNum) (n : Nat) :
    (s.afterRead a reg n).life = s.life := rfl
@[simp] theorem State.afterRead_chip (s : State) (a : DevAddr) (reg : RegNum) (n : Nat) :
    (s.afterRead a reg n).chip = s.chip := rfl
@[simp] theorem State.afterRead_devAddr (s : State) (a : DevAddr) (reg : RegNum) (n : Nat) :
    (s.afterRead a reg n).devAddr = s.devAddr := rfl
@[simp] theorem State.afterRead_params (s : State) (a : DevAddr) (reg : RegNum) (n : Nat) :
    (s.afterRead a reg n).params = s.params := rfl
@[simp] theorem State.afterRead_host (s : State) (a : DevAddr) (reg : RegNum) (n : Nat) :
    (s.afterRead a reg n).host = s.host := rfl
@[simp] theorem State.afterRead_responses (s : State) (a : DevAddr) (reg : RegNum) (n : Nat) :
    (s.afterRead a reg n).responses = s.responses := rfl
@[simp] theorem State.afterRead_rmwLocal (s : State) (a : DevAddr) (reg : RegNum) (n : Nat) :
    (s.afterRead a reg n).rmwLocal = s.rmwLocal := rfl
@[simp] theorem State.afterRead_binding (s : State) (a : DevAddr) (reg : RegNum) (n : Nat) :
    (s.afterRead a reg n).binding = s.binding := rfl
@[simp] theorem State.afterRead_bus (s : State) (a : DevAddr) (reg : RegNum) (n : Nat) :
    (s.afterRead a reg n).bus = s.bus.tail := rfl
@[simp] theorem State.afterRead_dev (s : State) (a : DevAddr) (reg : RegNum) (n : Nat) :
    (s.afterRead a reg n).dev = s.takeEvent.dev := rfl
@[simp] theorem State.afterRead_draws (s : State) (a : DevAddr) (reg : RegNum) (n : Nat) :
    (s.afterRead a reg n).draws = s.draws + n := rfl
@[simp] theorem State.afterRead_trace (s : State) (a : DevAddr) (reg : RegNum) (n : Nat) :
    (s.afterRead a reg n).trace = s.trace ++ [.read a reg (List.ofFn (s.answer reg n))] := rfl

@[simp] theorem State.afterWrite_nextEvent (s : State) (a : DevAddr) (reg : RegNum) (bs : List Byte) :
    (s.afterWrite a reg bs).nextEvent = s.takeEvent.nextEvent := rfl
@[simp] theorem State.afterWrite_life (s : State) (a : DevAddr) (reg : RegNum) (bs : List Byte) :
    (s.afterWrite a reg bs).life = s.life := rfl
@[simp] theorem State.afterWrite_chip (s : State) (a : DevAddr) (reg : RegNum) (bs : List Byte) :
    (s.afterWrite a reg bs).chip = s.chip := rfl
@[simp] theorem State.afterWrite_devAddr (s : State) (a : DevAddr) (reg : RegNum) (bs : List Byte) :
    (s.afterWrite a reg bs).devAddr = s.devAddr := rfl
@[simp] theorem State.afterWrite_params (s : State) (a : DevAddr) (reg : RegNum) (bs : List Byte) :
    (s.afterWrite a reg bs).params = s.params := rfl
@[simp] theorem State.afterWrite_host (s : State) (a : DevAddr) (reg : RegNum) (bs : List Byte) :
    (s.afterWrite a reg bs).host = s.host := rfl
@[simp] theorem State.afterWrite_responses (s : State) (a : DevAddr) (reg : RegNum) (bs : List Byte) :
    (s.afterWrite a reg bs).responses = s.responses := rfl
@[simp] theorem State.afterWrite_rmwLocal (s : State) (a : DevAddr) (reg : RegNum) (bs : List Byte) :
    (s.afterWrite a reg bs).rmwLocal = s.rmwLocal := rfl
@[simp] theorem State.afterWrite_binding (s : State) (a : DevAddr) (reg : RegNum) (bs : List Byte) :
    (s.afterWrite a reg bs).binding = s.binding := rfl
@[simp] theorem State.afterWrite_bus (s : State) (a : DevAddr) (reg : RegNum) (bs : List Byte) :
    (s.afterWrite a reg bs).bus = s.bus.tail := rfl
@[simp] theorem State.afterWrite_dev (s : State) (a : DevAddr) (reg : RegNum) (bs : List Byte) :
    (s.afterWrite a reg bs).dev = s.takeEvent.dev.writeBytes reg.toNat bs := rfl
@[simp] theorem State.afterWrite_draws (s : State) (a : DevAddr) (reg : RegNum) (bs : List Byte) :
    (s.afterWrite a reg bs).draws = s.draws := rfl
@[simp] theorem State.afterWrite_trace (s : State) (a : DevAddr) (reg : RegNum) (bs : List Byte) :
    (s.afterWrite a reg bs).trace = s.trace ++ [.write a reg bs] := rfl

@[simp] theorem State.afterFailedRead_nextEvent (s : State) (a : DevAddr) (reg : RegNum) (n : Nat) (e : XErr) :
    (s.afterFailedRead a reg n e).nextEvent = s.takeEvent.nextEvent := rfl
@[simp] theorem State.afterFailedRead_life (s : State) (a : DevAddr) (reg : RegNum) (n : Nat) (e : XErr) :
    (s.afterFailedRead a reg n e).life = s.life := rfl
@[simp] theorem State.afterFailedRead_chip (s : State) (a : DevAddr) (reg : RegNum) (n : Nat) (e : XErr) :
    (s.afterFailedRead a reg n e).chip = s.chip := rfl
@[simp] theorem State.afterFailedRead_devAddr (s : State) (a : DevAddr) (reg : RegNum) (n : Nat) (e : XErr) :
    (s.afterFailedRead a reg n e).devAddr = s.devAddr := rfl
@[simp] theorem State.afterFailedRead_params (s : State) (a : DevAddr) (reg : RegNum) (n : Nat) (e : XErr) :
    (s.afterFailedRead a reg n e).params = s.params := rfl
@[simp] theorem State.afterFailedRead_host (s : State) (a : DevAddr) (reg : RegNum) (n : Nat) (e : XErr) :
    (s.afterFailedRead a reg n e).host = s.host := rfl
@[simp] theorem State.afterFailedRead_responses (s : State) (a : DevAddr) (reg : RegNum) (n : Nat) (e : XErr) :
    (s.afterFailedRead a reg n e).responses = s.responses := rfl
@[simp] theorem State.afterFailedRead_rmwLocal (s : State) (a : DevAddr) (reg : RegNum) (n : Nat) (e : XErr) :
    (s.afterFailedRead a reg n e).rmwLocal = s.rmwLocal := rfl
@[simp] theorem State.afterFailedRead_binding (s : State) (a : DevAddr) (reg : RegNum) (n : Nat) (e : XErr) :
    (s.afterFailedRead a reg n e).binding = s.binding := rfl
@[simp] theorem State.afterFailedRead_bus (s : State) (a : DevAddr) (reg : RegNum) (n : Nat) (e : XErr) :
    (s.afterFailedRead a reg n e).bus = s.bus.tail := rfl
@[simp] theorem State.afterFailedRead_dev (s : State) (a : DevAddr) (reg : RegNum) (n : Nat) (e : XErr) :
    (s.afterFailedRead a reg n e).dev = s.takeEvent.dev := rfl
@[simp] theorem State.afterFailedRead_draws (s : State) (a : DevAddr) (reg : RegNum) (n : Nat) (e : XErr) :
    (s.afterFailedRead a reg n e).draws = s.draws := rfl
@[simp] theorem State.afterFailedRead_trace (s : State) (a : DevAddr) (reg : RegNum) (n : Nat) (e : XErr) :
    (s.afterFailedRead a reg n e).trace = s.trace ++ [.readFailed a reg n e] := rfl

@[simp] theorem State.afterFailedWrite_nextEvent (s : State) (a : DevAddr) (reg : RegNum) (bs : List Byte) (e : XErr)
    (landed : List Bool) :
    (s.afterFailedWrite a reg bs e landed).nextEvent = s.takeEvent.nextEvent := rfl
@[simp] theorem State.afterFailedWrite_life (s : State) (a : DevAddr) (reg : RegNum) (bs : List Byte) (e : XErr)
    (landed : List Bool) :
    (s.afterFailedWrite a reg bs e landed).life = s.life := rfl
@[simp] theorem State.afterFailedWrite_chip (s : State) (a : DevAddr) (reg : RegNum) (bs : List Byte) (e : XErr)
    (landed : List Bool) :
    (s.afterFailedWrite a reg bs e landed).chip = s.chip := rfl
@[simp] theorem State.afterFailedWrite_devAddr (s : State) (a : DevAddr) (reg : RegNum) (bs : List Byte) (e : XErr)
    (landed : List Bool) :
    (s.afterFailedWrite a reg bs e landed).devAddr = s.devAddr := rfl
@[simp] theorem State.afterFailedWrite_params (s : State) (a : DevAddr) (reg : RegNum) (bs : List Byte) (e : XErr)
    (landed : List Bool) :
    (s.afterFailedWrite a reg bs e landed).params = s.params := rfl
@[simp] theorem State.afterFailedWrite_host (s : State) (a : DevAddr) (reg : RegNum) (bs : List Byte) (e : XErr)
    (landed : List Bool) :
    (s.afterFailedWrite a reg bs e landed).host = s.host := rfl
@[simp] theorem State.afterFailedWrite_responses (s : State) (a : DevAddr) (reg : RegNum) (bs : List Byte) (e : XErr)
    (landed : List Bool) :
    (s.afterFailedWrite a reg bs e landed).responses = s.responses := rfl
@[simp] theorem State.afterFailedWrite_rmwLocal (s : State) (a : DevAddr) (reg : RegNum) (bs : List Byte) (e : XErr)
    (landed : List Bool) :
    (s.afterFailedWrite a reg bs e landed).rmwLocal = s.rmwLocal := rfl
@[simp] theorem State.afterFailedWrite_binding (s : State) (a : DevAddr) (reg : RegNum) (bs : List Byte) (e : XErr)
    (landed : List Bool) :
    (s.afterFailedWrite a reg bs e landed).binding = s.binding := rfl
@[simp] theorem State.afterFailedWrite_bus (s : State) (a : DevAddr) (reg : RegNum) (bs : List Byte) (e : XErr)
    (landed : List Bool) :
    (s.afterFailedWrite a reg bs e landed).bus = s.bus.tail := rfl
@[simp] theorem State.afterFailedWrite_dev (s : State) (a : DevAddr) (reg : RegNum) (bs : List Byte) (e : XErr)
    (landed : List Bool) :
    (s.afterFailedWrite a reg bs e landed).dev = s.takeEvent.dev.writeLanded reg.toNat bs landed := rfl
@[simp] theorem State.afterFailedWrite_draws (s : State) (a : DevAddr) (reg : RegNum) (bs : List Byte) (e : XErr)
    (landed : List Bool) :
    (s.afterFailedWrite a reg bs e landed).draws = s.draws := rfl
@[simp] theorem State.afterFailedWrite_trace (s : State) (a : DevAddr) (reg : RegNum) (bs : List Byte) (e : XErr)
    (landed : List Bool) :
    (s.afterFailedWrite a reg bs e landed).trace = s.trace ++ [.writeFailed a reg bs e] := rfl

@[simp] theorem State.afterRmw_nextEvent (s : State) (a : DevAddr) (reg : RegNum) (f : Byte → Byte) :
    (s.afterRmw a reg f).nextEvent = s.takeEvent.takeEvent.nextEvent := rfl
@[simp] theorem State.afterRmw_life (s : State) (a : DevAddr) (reg : RegNum) (f : Byte → Byte) :
    (s.afterRmw a reg f).life = s.life := rfl
@[simp] theorem State.afterRmw_chip (s : State) (a : DevAddr) (reg : RegNum) (f : Byte → Byte) :
    (s.afterRmw a reg f).chip = s.chip := rfl
@[simp] theorem State.afterRmw_devAddr (s : State) (a : DevAddr) (reg : RegNum) (f : Byte → Byte) :
    (s.afterRmw a reg f).devAddr = s.devAddr := rfl
@[simp] theorem State.afterRmw_params (s : State) (a : DevAddr) (reg : RegNum) (f : Byte → Byte) :
    (s.afterRmw a reg f).params = s.params := rfl
@[simp] theorem State.afterRmw_host (s : State) (a : DevAddr) (reg : RegNum) (f : Byte → Byte) :
    (s.afterRmw a reg f).host = s.host := rfl
@[simp] theorem State.afterRmw_responses (s : State) (a : DevAddr) (reg : RegNum) (f : Byte → Byte) :
    (s.afterRmw a reg f).responses = s.responses := rfl
@[simp] theorem State.afterRmw_rmwLocal (s : State) (a : DevAddr) (reg : RegNum) (f : Byte → Byte) :
    (s.afterRmw a reg f).rmwLocal = s.rmwLocal := rfl
@[simp] theorem State.afterRmw_binding (s : State) (a : DevAddr) (reg : RegNum) (f : Byte → Byte) :
    (s.afterRmw a reg f).binding = s.binding := rfl
@[simp] theorem State.afterRmw_bus (s : State) (a : DevAddr) (reg : RegNum) (f : Byte → Byte) :
    (s.afterRmw a reg f).bus = s.bus.tail.tail := rfl
@[simp] theorem State.afterRmw_dev (s : State) (a : DevAddr) (reg : RegNum) (f : Byte → Byte) :
    (s.afterRmw a reg f).dev = Memory.write s.takeEvent.takeEvent.dev reg.toNat (f (s.answerByte reg)) := rfl
@[simp] theorem State.afterRmw_draws (s : State) (a : DevAddr) (reg : RegNum) (f : Byte → Byte) :
    (s.afterRmw a reg f).draws = s.draws + 1 := rfl

/-- R68: where the environment has just changed nothing, a read answers what the register holds. -/
theorem State.answerByte_of_unchanged {s : State} {reg : RegNum} {x : Byte} (h : s.nextEvent.changes = [])
    (hx : s.dev.read reg.toNat = some x) : s.answerByte reg = x := by
  simp [State.answerByte, State.oracle, h, Memory.change, hx]

/-! ### The primitives, each with everything it can do -/

/-- R52: a read of registers that exist, which the transport completes. -/
theorem memRead_ok {a : DevAddr} {reg : RegNum} {n : Nat} {s : State} (hn : 1 ≤ n) (hr : reg.toNat + n ≤ 256)
    (h : s.nextEvent.answer = .ok) : memRead a reg n s = .done (s.answer reg n) (s.afterRead a reg n) := by
  simp only [memRead, hn, hr, h, and_self, if_true]
  rfl

/-- R54: a read the transport fails. -/
theorem memRead_fail {a : DevAddr} {reg : RegNum} {n : Nat} {s : State} {e : XErr} {landed : List Bool}
    (hn : 1 ≤ n) (hr : reg.toNat + n ≤ 256) (h : s.nextEvent.answer = .fail e landed) :
    memRead a reg n s = .raised (.xport e) (s.afterFailedRead a reg n e) := by
  simp only [memRead, hn, hr, h, and_self, if_true]
  rfl

/-- R305: a read the transport never answers. -/
theorem memRead_never {a : DevAddr} {reg : RegNum} {n : Nat} {s : State} (hn : 1 ≤ n) (hr : reg.toNat + n ≤ 256)
    (h : s.nextEvent.answer = .never) : memRead a reg n s = .stopped .transportNeverAnswers := by
  simp only [memRead, hn, hr, h, and_self, if_true]

/-- Everything a read of registers that exist can do. -/
theorem memRead_cases {a : DevAddr} {reg : RegNum} {n : Nat} {s : State} (hn : 1 ≤ n) (hr : reg.toNat + n ≤ 256) :
    (memRead a reg n s = .done (s.answer reg n) (s.afterRead a reg n) ∧ s.nextEvent.answer = .ok) ∨
    (∃ e landed, memRead a reg n s = .raised (.xport e) (s.afterFailedRead a reg n e) ∧
      s.nextEvent.answer = .fail e landed) ∨
    (memRead a reg n s = .stopped .transportNeverAnswers ∧ s.nextEvent.answer = .never) := by
  rcases h : s.nextEvent.answer with _ | ⟨e, landed⟩ | _
  · exact .inl ⟨memRead_ok hn hr h, rfl⟩
  · exact .inr (.inl ⟨e, landed, memRead_fail hn hr h, rfl⟩)
  · exact .inr (.inr ⟨memRead_never hn hr h, rfl⟩)

/-- R50: a read of no registers, or of registers that do not exist. -/
theorem memRead_outside {a : DevAddr} {reg : RegNum} {n : Nat} {s : State}
    (h : ¬(1 ≤ n ∧ reg.toNat + n ≤ 256)) : memRead a reg n s = .stopped .noSuchRegister := by
  simp only [memRead, if_neg h]

/-- R53: a write to registers that exist, which the transport completes. -/
theorem memWrite_ok {a : DevAddr} {reg : RegNum} {bs : List Byte} {s : State} (hn : 1 ≤ bs.length)
    (hr : reg.toNat + bs.length ≤ 256) (h : s.nextEvent.answer = .ok) :
    memWrite a reg bs s = .done () (s.afterWrite a reg bs) := by
  simp only [memWrite, hn, hr, h, and_self, if_true]
  rfl

/-- R54, R224: a write the transport fails; any part of it may have landed. -/
theorem memWrite_fail {a : DevAddr} {reg : RegNum} {bs : List Byte} {s : State} {e : XErr} {landed : List Bool}
    (hn : 1 ≤ bs.length) (hr : reg.toNat + bs.length ≤ 256) (h : s.nextEvent.answer = .fail e landed) :
    memWrite a reg bs s = .raised (.xport e) (s.afterFailedWrite a reg bs e landed) := by
  simp only [memWrite, hn, hr, h, and_self, if_true]
  rfl

/-- R305: a write the transport never answers. -/
theorem memWrite_never {a : DevAddr} {reg : RegNum} {bs : List Byte} {s : State} (hn : 1 ≤ bs.length)
    (hr : reg.toNat + bs.length ≤ 256) (h : s.nextEvent.answer = .never) :
    memWrite a reg bs s = .stopped .transportNeverAnswers := by
  simp only [memWrite, hn, hr, h, and_self, if_true]

/-- Everything a write to registers that exist can do. -/
theorem memWrite_cases {a : DevAddr} {reg : RegNum} {bs : List Byte} {s : State} (hn : 1 ≤ bs.length)
    (hr : reg.toNat + bs.length ≤ 256) :
    (memWrite a reg bs s = .done () (s.afterWrite a reg bs) ∧ s.nextEvent.answer = .ok) ∨
    (∃ e landed, memWrite a reg bs s = .raised (.xport e) (s.afterFailedWrite a reg bs e landed) ∧
      s.nextEvent.answer = .fail e landed) ∨
    (memWrite a reg bs s = .stopped .transportNeverAnswers ∧ s.nextEvent.answer = .never) := by
  rcases h : s.nextEvent.answer with _ | ⟨e, landed⟩ | _
  · exact .inl ⟨memWrite_ok hn hr h, rfl⟩
  · exact .inr (.inl ⟨e, landed, memWrite_fail hn hr h, rfl⟩)
  · exact .inr (.inr ⟨memWrite_never hn hr h, rfl⟩)

/-- R50: a write of no registers, or of registers that do not exist. -/
theorem memWrite_outside {a : DevAddr} {reg : RegNum} {bs : List Byte} {s : State}
    (h : ¬(1 ≤ bs.length ∧ reg.toNat + bs.length ≤ 256)) : memWrite a reg bs s = .stopped .noSuchRegister := by
  simp only [memWrite, if_neg h]

/-- R52: a one-byte read that completes; a register number is always below 256. -/
theorem readByte_ok {a : DevAddr} {reg : RegNum} {s : State} (h : s.nextEvent.answer = .ok) :
    readByte a reg s = .done (s.answerByte reg) (s.afterRead a reg 1) := by
  rw [readByte, Cmd.bind_done (memRead_ok (by omega) (by omega) h)]
  rfl

/-- R54: a one-byte read that fails. -/
theorem readByte_fail {a : DevAddr} {reg : RegNum} {s : State} {e : XErr} {landed : List Bool}
    (h : s.nextEvent.answer = .fail e landed) :
    readByte a reg s = .raised (.xport e) (s.afterFailedRead a reg 1 e) := by
  rw [readByte, Cmd.bind_raised (memRead_fail (by omega) (by omega) h)]

/-- R305: a one-byte read the transport never answers. -/
theorem readByte_never {a : DevAddr} {reg : RegNum} {s : State} (h : s.nextEvent.answer = .never) :
    readByte a reg s = .stopped .transportNeverAnswers := by
  rw [readByte, Cmd.bind_stopped (memRead_never (by omega) (by omega) h)]

/-- Everything a one-byte read can do. -/
theorem readByte_cases (a : DevAddr) (reg : RegNum) (s : State) :
    (readByte a reg s = .done (s.answerByte reg) (s.afterRead a reg 1) ∧ s.nextEvent.answer = .ok) ∨
    (∃ e landed, readByte a reg s = .raised (.xport e) (s.afterFailedRead a reg 1 e) ∧
      s.nextEvent.answer = .fail e landed) ∨
    (readByte a reg s = .stopped .transportNeverAnswers ∧ s.nextEvent.answer = .never) := by
  rcases h : s.nextEvent.answer with _ | ⟨e, landed⟩ | _
  · exact .inl ⟨readByte_ok h, rfl⟩
  · exact .inr (.inl ⟨e, landed, readByte_fail h, rfl⟩)
  · exact .inr (.inr ⟨readByte_never h, rfl⟩)

/-- R30, R62: a read-modify-write whose read completes is the write of the changed byte. -/
theorem rmwByte_of_read {a : DevAddr} {reg : RegNum} {f : Byte → Byte} {s : State}
    (h : s.nextEvent.answer = .ok) :
    rmwByte a reg f s =
      ((memWrite a reg [f (s.answerByte reg)]).bind fun _ => holdByte none)
        ((s.afterRead a reg 1).hold (some (s.answerByte reg))) := by
  rw [rmwByte, Cmd.bind_done (readByte_ok h)]
  rfl

/-- R143: both transactions complete. -/
theorem rmwByte_ok {a : DevAddr} {reg : RegNum} {f : Byte → Byte} {s : State}
    (h : s.nextEvent.answer = .ok) (h' : s.takeEvent.nextEvent.answer = .ok) :
    rmwByte a reg f s = .done () ((s.afterRmw a reg f).hold none) := by
  rw [rmwByte_of_read h, Cmd.bind_done (memWrite_ok (s := (s.afterRead a reg 1).hold (some (s.answerByte reg)))
    (by simp) (by simp only [List.length_singleton]; omega) h')]
  rfl

/-- R143, R224: the read fails; nothing is written. -/
theorem rmwByte_read_fails {a : DevAddr} {reg : RegNum} {f : Byte → Byte} {s : State} {e : XErr}
    {landed : List Bool} (h : s.nextEvent.answer = .fail e landed) :
    rmwByte a reg f s = .raised (.xport e) (s.afterFailedRead a reg 1 e) := by
  rw [rmwByte, Cmd.bind_raised (readByte_fail h)]

/-- R143, R224: the write fails; it may have landed. -/
theorem rmwByte_write_fails {a : DevAddr} {reg : RegNum} {f : Byte → Byte} {s : State} {e : XErr}
    {landed : List Bool} (h : s.nextEvent.answer = .ok) (h' : s.takeEvent.nextEvent.answer = .fail e landed) :
    rmwByte a reg f s =
      .raised (.xport e)
        (((s.afterRead a reg 1).afterFailedWrite a reg [f (s.answerByte reg)] e landed).hold
          (some (s.answerByte reg))) := by
  rw [rmwByte_of_read h, Cmd.bind_raised (memWrite_fail (s := (s.afterRead a reg 1).hold (some (s.answerByte reg)))
    (by simp) (by simp only [List.length_singleton]; omega) h')]
  rfl

/-- Everything a read-modify-write can do. -/
theorem rmwByte_cases (a : DevAddr) (reg : RegNum) (f : Byte → Byte) (s : State) :
    (rmwByte a reg f s = .done () ((s.afterRmw a reg f).hold none) ∧
      s.nextEvent.answer = .ok ∧ s.takeEvent.nextEvent.answer = .ok) ∨
    (∃ e landed, rmwByte a reg f s = .raised (.xport e) (s.afterFailedRead a reg 1 e) ∧
      s.nextEvent.answer = .fail e landed) ∨
    (∃ e landed, rmwByte a reg f s =
        .raised (.xport e)
          (((s.afterRead a reg 1).afterFailedWrite a reg [f (s.answerByte reg)] e landed).hold
            (some (s.answerByte reg))) ∧
      s.nextEvent.answer = .ok ∧ s.takeEvent.nextEvent.answer = .fail e landed) ∨
    (rmwByte a reg f s = .stopped .transportNeverAnswers ∧
      (s.nextEvent.answer = .never ∨ s.takeEvent.nextEvent.answer = .never)) := by
  rcases h : s.nextEvent.answer with _ | ⟨e, landed⟩ | _
  · rcases h' : s.takeEvent.nextEvent.answer with _ | ⟨e, landed⟩ | _
    · exact .inl ⟨rmwByte_ok h h', rfl, rfl⟩
    · exact .inr (.inr (.inl ⟨e, landed, rmwByte_write_fails h h', rfl, rfl⟩))
    · refine .inr (.inr (.inr ⟨?_, .inr rfl⟩))
      rw [rmwByte_of_read h, Cmd.bind_stopped (memWrite_never (s := (s.afterRead a reg 1).hold (some (s.answerByte reg)))
    (by simp) (by simp only [List.length_singleton]; omega) h')]
  · exact .inr (.inl ⟨e, landed, rmwByte_read_fails h, rfl⟩)
  · exact .inr (.inr (.inr ⟨by rw [rmwByte, Cmd.bind_stopped (readByte_never h)], .inl rfl⟩))

/-! ### The checks before the first transaction -/

theorem requireBinding_bound {s : State} {b : Binding} (h : s.binding = some b) :
    requireBinding s = .done b s := by
  simp [requireBinding, h]

theorem requireBinding_unbound {s : State} (h : s.binding = none) : requireBinding s = .raised .unbound s := by
  simp [requireBinding, h]

theorem requireUnbound_ready {s : State} (h : s.life = .ready) : requireUnbound s = .raised .rebind s := by
  simp [requireUnbound, h]

theorem requireUnbound_unbound {s : State} (h : s.life = .unbound) : requireUnbound s = .done () s := by
  simp [requireUnbound, h]

theorem resolve_some {v : Variant} {acc : Accessor} {e : MapEntry} {s : State}
    (h : dispatch s.params v acc = some e) : resolve v acc s = .done e s := by
  simp [resolve, readParams, Cmd.bind, h, Cmd.ret]

theorem resolve_none {v : Variant} {acc : Accessor} {s : State} (h : dispatch s.params v acc = none) :
    resolve v acc s = .raised .cap s := by
  simp [resolve, readParams, Cmd.bind, h, Cmd.raise]

/-- Everything resolving an accessor can do: it never changes the state. -/
theorem resolve_cases (v : Variant) (acc : Accessor) (s : State) :
    (∃ e, resolve v acc s = .done e s ∧ dispatch s.params v acc = some e) ∨
    (resolve v acc s = .raised .cap s ∧ dispatch s.params v acc = none) := by
  rcases h : dispatch s.params v acc with _ | e
  · exact .inr ⟨resolve_none h, rfl⟩
  · exact .inl ⟨e, resolve_some h, rfl⟩

end Sys2Proof.Machine
end

