-- ==== Sys2Proof/Laws/Encoding.lean ====
section
/-! SUPPORT. The command word is its fields and nothing else (30_encoding.md rule R81), and every code names
what it encodes. -/

namespace Sys2Proof

/-- R81: packing fields into a word and reading them back loses nothing. -/
theorem Fields.ofWord_toWord (f : Fields) : Fields.ofWord f.toWord = f := by
  obtain ⟨opc, chip, acc, val, rsv, imm8, mask8⟩ := f
  simp only [Fields.ofWord, Fields.toWord, Fields.mk.injEq]
  refine ⟨?_, ?_, ?_, ?_, ?_, ?_, ?_⟩ <;>
    · ext i hi
      simp only [BitVec.getElem_extractLsb', BitVec.getLsbD_or, BitVec.getLsbD_shiftLeft, BitVec.getLsbD_setWidth]
      rw [BitVec.getElem_eq_testBit_toNat, BitVec.testBit_toNat]
      interval_cases i <;> simp

/-- R81: every bit of a word is in one of its fields. -/
theorem Fields.toWord_ofWord (w : Word) : (Fields.ofWord w).toWord = w := by
  ext i hi
  simp only [Fields.ofWord, Fields.toWord, BitVec.getElem_or, BitVec.getElem_shiftLeft, BitVec.getElem_setWidth,
    BitVec.getLsbD_extractLsb']
  rw [BitVec.getElem_eq_testBit_toNat, BitVec.testBit_toNat]
  interval_cases i <;> simp

@[simp] theorem Opcode.ofCode_code (op : Opcode) : Opcode.ofCode op.code = some op := by
  cases op <;> rfl

@[simp] theorem Variant.ofCode_code (v : Variant) : Variant.ofCode v.code = some v := by
  cases v <;> rfl

@[simp] theorem Accessor.ofCode_code (a : Accessor) : Accessor.ofCode a.code = some a := by
  cases a <;> rfl

@[simp] theorem flagBit_eq_one (v : Bool) : (flagBit v == 1#1) = v := by
  cases v <;> rfl

/-- R88: an OPC value names at most the opcode it is the code of. -/
theorem Opcode.code_of_ofCode {c : BitVec 8} {op : Opcode} (h : Opcode.ofCode c = some op) : op.code = c := by
  revert h
  revert op c
  decide

/-- R22: a CHIP value names at most the variant it is the code of. -/
theorem Variant.code_of_ofCode {c : BitVec 2} {v : Variant} (h : Variant.ofCode c = some v) : v.code = c := by
  revert h
  revert v c
  decide

/-- R166: an ACC value names at most the accessor it is the id of. -/
theorem Accessor.code_of_ofCode {c : BitVec 3} {a : Accessor} (h : Accessor.ofCode c = some a) : a.code = c := by
  revert h
  revert a c
  decide

/-- R87: VAL is one bit. -/
theorem flagBit_flag (f : Fields) : flagBit f.flag = f.val := by
  have : ∀ v : BitVec 1, flagBit (v == 1) = v := by decide
  exact this f.val

end Sys2Proof
end

