-- ==== Sys2Proof/Laws/PerInstr.lean ====
section
/-! SUPPORT. The family RowBits: the word an instruction encodes to has its row's OPC, RSV zero, and every field
its row does not use zero (30_encoding.md rules R81, R82, R88). -/

namespace Sys2Proof.Laws

/-- R82 cases 1 to 3, of the word an instruction encodes to. -/
def RowBits.Statement (i : Instr) : Prop :=
  (Fields.ofWord (encode i).word).opc = i.opcode.code ∧ (Fields.ofWord (encode i).word).rsv = 0 ∧
    i.opcode.shape.unusedZero (Fields.ofWord (encode i).word) = true

/-- The same of the fields the encoder packs. -/
theorem RowBits.of_fields {i : Instr}
    (h : i.fields.opc = i.opcode.code ∧ i.fields.rsv = 0 ∧ i.opcode.shape.unusedZero i.fields = true) :
    RowBits.Statement i := by
  simpa only [RowBits.Statement, encode, Fields.ofWord_toWord] using h

theorem RowBits.bcdDec (b : Byte) : RowBits.Statement (.bcdDec b) := RowBits.of_fields ⟨rfl, rfl, rfl⟩
theorem RowBits.bcdEnc (v : INT32) : RowBits.Statement (.bcdEnc v) := RowBits.of_fields ⟨rfl, rfl, rfl⟩
theorem RowBits.flagTest (b m : Byte) : RowBits.Statement (.flagTest b m) := RowBits.of_fields ⟨rfl, rfl, rfl⟩
theorem RowBits.flagMerge (b m : Byte) (v : Bool) : RowBits.Statement (.flagMerge b m v) := RowBits.of_fields ⟨rfl, rfl, rfl⟩
theorem RowBits.dtDec (bs : List Byte) : RowBits.Statement (.dtDec bs) := RowBits.of_fields ⟨rfl, rfl, rfl⟩
theorem RowBits.dtEnc (dt : DateTime) : RowBits.Statement (.dtEnc dt) := RowBits.of_fields ⟨rfl, rfl, rfl⟩
theorem RowBits.almDec (chip : Variant) (bs : List Byte) : RowBits.Statement (.almDec chip bs) := RowBits.of_fields ⟨rfl, rfl, rfl⟩
theorem RowBits.almEnc (chip : Variant) (al : AlarmFields) : RowBits.Statement (.almEnc chip al) := RowBits.of_fields ⟨rfl, rfl, rfl⟩
theorem RowBits.freqDec (chip : Variant) (r : Byte) : RowBits.Statement (.freqDec chip r) := RowBits.of_fields ⟨rfl, rfl, rfl⟩
theorem RowBits.freqEnc (chip : Variant) (r : Byte) (hz : INT32) : RowBits.Statement (.freqEnc chip r hz) := RowBits.of_fields ⟨rfl, rfl, rfl⟩
theorem RowBits.map (chip : Variant) (acc : Accessor) : RowBits.Statement (.map chip acc) := RowBits.of_fields ⟨rfl, rfl, rfl⟩
theorem RowBits.bind (chip : Variant) (a : DevAddr) : RowBits.Statement (.bind chip a) := RowBits.of_fields ⟨rfl, rfl, rfl⟩
theorem RowBits.dtRead : RowBits.Statement .dtRead := RowBits.of_fields ⟨rfl, rfl, rfl⟩
theorem RowBits.dtWrite (dt : DateTime) : RowBits.Statement (.dtWrite dt) := RowBits.of_fields ⟨rfl, rfl, rfl⟩
theorem RowBits.flagGet (acc : Accessor) : RowBits.Statement (.flagGet acc) := RowBits.of_fields ⟨rfl, rfl, rfl⟩
theorem RowBits.flagSet (acc : Accessor) (v : Bool) : RowBits.Statement (.flagSet acc v) := RowBits.of_fields ⟨rfl, rfl, rfl⟩
theorem RowBits.freqGet : RowBits.Statement .freqGet := RowBits.of_fields ⟨rfl, rfl, rfl⟩
theorem RowBits.freqSet (hz : INT32) : RowBits.Statement (.freqSet hz) := RowBits.of_fields ⟨rfl, rfl, rfl⟩
theorem RowBits.memRead (a : Byte) : RowBits.Statement (.memRead a) := RowBits.of_fields ⟨rfl, rfl, rfl⟩
theorem RowBits.memWrite (a : Byte) (bs : List Byte) : RowBits.Statement (.memWrite a bs) := RowBits.of_fields ⟨rfl, rfl, rfl⟩
theorem RowBits.almRead : RowBits.Statement .almRead := RowBits.of_fields ⟨rfl, rfl, rfl⟩
theorem RowBits.almWrite (al : AlarmFields) : RowBits.Statement (.almWrite al) := RowBits.of_fields ⟨rfl, rfl, rfl⟩
theorem RowBits.reset : RowBits.Statement .reset := RowBits.of_fields ⟨rfl, rfl, rfl⟩
theorem RowBits.rflagGet (r : RegNum) (m : Byte) : RowBits.Statement (.rflagGet r m) := RowBits.of_fields ⟨rfl, rfl, rfl⟩
theorem RowBits.rflagSet (r : RegNum) (m : Byte) (v : Bool) : RowBits.Statement (.rflagSet r m v) := RowBits.of_fields ⟨rfl, rfl, rfl⟩

end Sys2Proof.Laws
end

