-- ==== Sys2Proof/Laws/Tables.lean ====
section
/-! SUPPORT. Looking keys and patterns up in a frequency table (43_register_map.md rules R171 to R173), and the
NVRAM bound (44_bus_operations.md rule R215). -/

namespace Sys2Proof.Machine

/-- R171, R172: a key of the table gives its own row's pattern. -/
theorem freqPattern_of_mem {T : FreqTable} (h : freqTableWf T = true) {row : FreqRow} (hr : row ∈ T.rows) :
    freqPattern T row.key = some row.pattern := by
  simp only [freqTableWf, Bool.and_eq_true, decide_eq_true_eq] at h
  unfold freqPattern
  rcases hf : T.rows.find? (fun r => r.key == row.key) with _ | r
  · simp only [List.find?_eq_none, beq_iff_eq] at hf
    exact absurd rfl (hf row hr)
  · have hk : r.key = row.key := by simpa using List.find?_some hf
    rw [hf, List.inj_on_of_nodup_map h.1.2 (List.mem_of_find?_eq_some hf) hr hk]
    rfl

/-- R172: a value that is no key of the table gives nothing. -/
theorem freqPattern_none {T : FreqTable} {hz : INT32} (h : ∀ row ∈ T.rows, row.key ≠ hz) :
    freqPattern T hz = none := by
  simpa [freqPattern] using h

/-- R171, R173: a byte whose masked bits are a row's pattern gives that row's key. -/
theorem freqKey_of_mem {T : FreqTable} (h : freqTableWf T = true) {row : FreqRow} {x : Byte} (hr : row ∈ T.rows)
    (hx : row.pattern = x &&& T.mask) : freqKey T x = some row.key := by
  simp only [freqTableWf, Bool.and_eq_true, decide_eq_true_eq] at h
  unfold freqKey
  rcases hf : T.rows.find? (fun r => r.pattern == x &&& T.mask) with _ | r
  · simp only [List.find?_eq_none, beq_iff_eq] at hf
    exact absurd hx (hf row hr)
  · have hk : r.pattern = x &&& T.mask := by simpa using List.find?_some hf
    rw [hf, List.inj_on_of_nodup_map h.2 (List.mem_of_find?_eq_some hf) hr (hk.trans hx.symm)]
    rfl

/-- R173: a byte whose masked bits are no row's pattern gives nothing. -/
theorem freqKey_none {T : FreqTable} {x : Byte} (h : ∀ row ∈ T.rows, row.pattern ≠ x &&& T.mask) :
    freqKey T x = none := by
  simpa [freqKey] using h

/-- R215: the NVRAM bound. -/
theorem nvramFits_iff (a : Byte) (n : Nat) : nvramFits a n = true ↔ (a.toNat ≤ 55 ∧ a.toNat + n ≤ 56) := by
  unfold nvramFits nvramSize
  rw [Bool.and_eq_true, decide_eq_true_eq, decide_eq_true_eq]

end Sys2Proof.Machine
end

