-- ==== Sys2Proof/Machine/AssemblerText.lean ====
section
/-! DEFINITION. The spelling of assembler lines (spec 30_encoding.md rules R91 to R94), from text to an
instruction. It is no part of the machine's step. What the rules do not say of a spelling is in log entry 13. -/

namespace Sys2Proof.Machine

/-- A piece of assembler text. -/
abbrev Text := List Char

/-- A line with its spaces at both ends removed. -/
def trimText (t : Text) : Text := ((t.dropWhile (· == ' ')).reverse.dropWhile (· == ' ')).reverse

/-- The pieces of a text between the separators `sep`. -/
def splitAtChar (sep : Char) : Text → List Text
  | [] => [[]]
  | c :: cs =>
    if c = sep then [] :: splitAtChar sep cs
    else
      match splitAtChar sep cs with
      | [] => [[c]]
      | t :: ts => (c :: t) :: ts

/-- R92, R93: the characters that open and close a record. -/
def openRecord : Char := Char.ofNat 123
def closeRecord : Char := Char.ofNat 125

/-- R91: the operands of a line: the pieces between the commas that stand outside every list and record. -/
def splitOperands : Nat → Text → List Text
  | _, [] => [[]]
  | depth, c :: cs =>
    let depth' :=
      if c = '[' ∨ c = openRecord then depth + 1 else if c = ']' ∨ c = closeRecord then depth - 1 else depth
    if c = ',' ∧ depth = 0 then [] :: splitOperands depth' cs
    else
      match splitOperands depth' cs with
      | [] => [[c]]
      | t :: ts => (c :: t) :: ts

/-- A digit of a base up to 16. -/
def digitValue (base : Nat) (c : Char) : Option Nat :=
  let d := if '0' ≤ c ∧ c ≤ '9' then c.toNat - 48 else if 'a' ≤ c ∧ c ≤ 'f' then c.toNat - 87
    else if 'A' ≤ c ∧ c ≤ 'F' then c.toNat - 55 else 16
  if d < base then some d else none

/-- The number a run of digits spells. -/
def digitsValue (base : Nat) (acc : Nat) : Text → Option Nat
  | [] => some acc
  | c :: cs => (digitValue base c).bind fun d => digitsValue base (acc * base + d) cs

/-- R92: a decimal field: one digit or more. -/
def decimalField (t : Text) : Option Nat := if t.isEmpty then none else digitsValue 10 0 t

/-- R91: an unsigned number, decimal or hexadecimal with `0x`. -/
def readNat : Text → Option Nat
  | '0' :: 'x' :: t => if t.isEmpty then none else digitsValue 16 0 t
  | t => decimalField t

/-- R91: a number, with its sign. -/
def readNumber : Text → Option Int
  | '-' :: t => (readNat t).map fun n => -(n : Int)
  | t => (readNat t).map fun n => (n : Int)

/-- The text between two characters, where a text begins and ends with them. -/
def enclosed (first last : Char) (t : Text) : Option Text :=
  match t with
  | [] => none
  | c :: cs => if c = first ∧ cs.getLast? = some last then some (trimText cs.dropLast) else none

/-- The pieces of a list or record, none where there is nothing between its ends. -/
def listItems (t : Text) : List Text := if t.isEmpty then [] else (splitAtChar ',' t).map trimText

/-- R8, R91: a byte list. -/
def readBytes (t : Text) : Option (List Byte) :=
  (enclosed '[' ']' t).bind fun inner => (listItems inner).mapM fun x => (readNumber x).bind numberByte

/-- R91: a chip name. -/
def readChip (t : Text) : Option Variant :=
  if t = "ds1307".toList then some .ds1307
  else if t = "ds3231".toList then some .ds3231
  else if t = "pcf8523".toList then some .pcf8523
  else none

/-- R91: an accessor name. -/
def readAccessor (t : Text) : Option Accessor :=
  if t = "running".toList then some .running
  else if t = "lost_power".toList then some .lostPower
  else if t = "alarm".toList then some .alarm
  else if t = "stop".toList then some .stop
  else if t = "battery_low".toList then some .batteryLow
  else none

/-- R92, R93: the fields of a record, each written `name=value`. -/
def readFields (t : Text) : Option (List (Text × Text)) :=
  (enclosed openRecord closeRecord t).bind fun inner =>
    (listItems inner).mapM fun item =>
      match splitAtChar '=' item with
      | [name, value] => some (trimText name, trimText value)
      | _ => none

/-- R92: an integer field of a record; left out, it is `none`. A field that is there must be an INT32. -/
def intField (fields : List (Text × Text)) (name : Text) : Option (Option INT32) :=
  match fields.find? fun f => f.1 = name with
  | none => some none
  | some f => ((readNumber f.2).bind numberInt32).map some

/-- R93: an alarm field; left out or written `-`, it is unset. -/
def alarmField (fields : List (Text × Text)) (name : Text) : Option (Option INT32) :=
  match fields.find? fun f => f.1 = name with
  | none => some none
  | some f => if f.2 = "-".toList then some none else ((readNumber f.2).bind numberInt32).map some

/-- A record may be written with these field names, each at most once. -/
def namesWithin (names : List Text) (fields : List (Text × Text)) : Bool :=
  fields.all (fun f => names.contains f.1) && decide (fields.map Prod.fst).Nodup

/-- R92: the names of the date/time fields, in positional order. -/
def dateTimeNames : List Text :=
  ["year".toList, "month".toList, "day".toList, "weekday".toList, "hour".toList, "minute".toList, "second".toList,
   "millisecond".toList]

/-- R93: the names of the alarm fields; no other can be written. -/
def alarmNames : List Text := ["minute".toList, "hour".toList, "day".toList, "weekday".toList]

/-- R92: the named form. -/
def readDateNamed (t : Text) : Option DateText :=
  (readFields t).bind fun fs =>
  if namesWithin dateTimeNames fs then
    (intField fs "year".toList).bind fun year =>
    (intField fs "month".toList).bind fun month =>
    (intField fs "day".toList).bind fun day =>
    (intField fs "weekday".toList).bind fun weekday =>
    (intField fs "hour".toList).bind fun hour =>
    (intField fs "minute".toList).bind fun minute =>
    (intField fs "second".toList).bind fun second =>
    (intField fs "millisecond".toList).bind fun millisecond =>
    match year, month, day with
    | some y, some mo, some d => some ⟨y, mo, d, weekday, hour, minute, second, millisecond⟩
    | _, _, _ => none
  else none

/-- R92: `YYYY-MM-DD`. -/
def readDay (t : Text) : Option DateText :=
  match splitAtChar '-' t with
  | [y, mo, d] =>
    ((decimalField y).bind fun y => numberInt32 y).bind fun y =>
    ((decimalField mo).bind fun mo => numberInt32 mo).bind fun mo =>
    ((decimalField d).bind fun d => numberInt32 d).map fun d =>
      ⟨y, mo, d, none, none, none, none, none⟩
  | _ => none

/-- R92: `wdW`. -/
def readWeekday : Text → Option INT32
  | 'w' :: 'd' :: w => (decimalField w).bind fun w => numberInt32 w
  | _ => none

/-- R92: `hh:mm:ss.mmm`. -/
def readClock (t : Text) : Option (INT32 × INT32 × INT32 × INT32) :=
  match splitAtChar ':' t with
  | [h, mi, rest] =>
    match splitAtChar '.' rest with
    | [s, ms] =>
      ((decimalField h).bind fun h => numberInt32 h).bind fun h =>
      ((decimalField mi).bind fun mi => numberInt32 mi).bind fun mi =>
      ((decimalField s).bind fun s => numberInt32 s).bind fun s =>
      ((decimalField ms).bind fun ms => numberInt32 ms).map fun ms => (h, mi, s, ms)
    | _ => none
  | _ => none

/-- R92: a date/time in any of its three forms. -/
def readDateTime (t : Text) : Option DateText :=
  match (splitAtChar ' ' t).filter (!·.isEmpty) with
  | [day, wd, clock] =>
    if t.head? = some openRecord then readDateNamed t
    else
      (readDay day).bind fun d =>
      (readWeekday wd).bind fun w =>
      (readClock clock).map fun c =>
        { d with weekday := some w, hour := some c.1, minute := some c.2.1, second := some c.2.2.1,
                 millisecond := some c.2.2.2 }
  | [day] => if t.head? = some openRecord then readDateNamed t else readDay day
  | _ => if t.head? = some openRecord then readDateNamed t else none

/-- R93: an alarm. -/
def readAlarm (t : Text) : Option AlarmFields :=
  (readFields t).bind fun fs =>
  if namesWithin alarmNames fs then
    (alarmField fs "minute".toList).bind fun minute =>
    (alarmField fs "hour".toList).bind fun hour =>
    (alarmField fs "day".toList).bind fun day =>
    (alarmField fs "weekday".toList).map fun weekday => ⟨minute, hour, day, weekday⟩
  else none

/-- R91: what stands at an operand's place. -/
inductive OperandKind where
  | number
  | bytes
  | chip
  | accessor
  | dateTime
  | alarm
  | devAddr
deriving DecidableEq, Repr

/-- R91: an operand from its text. A `DevAddr` value is the model's number (log entry 1). -/
def readOperand (k : OperandKind) (t : Text) : Option AsmOperand :=
  match k with
  | .number => (readNumber t).map .number
  | .bytes => (readBytes t).map .bytes
  | .chip => (readChip t).map .chip
  | .accessor => (readAccessor t).map .accessor
  | .dateTime => (readDateTime t).map .dateTime
  | .alarm => (readAlarm t).map .alarm
  | .devAddr => (readNat t).map fun n => .devAddr ⟨n⟩

/-- Operands from their texts, as many as the kinds. -/
def readOperands : List OperandKind → List Text → Option (List AsmOperand)
  | [], [] => some []
  | k :: ks, t :: ts => (readOperand k t).bind fun a => (readOperands ks ts).map fun xs => a :: xs
  | [], _ :: _ => none
  | _ :: _, [] => none

/-- R91: the operands of each mnemonic, in order. -/
def operandKinds : Opcode → List OperandKind
  | .bcdDec => [.number]
  | .bcdEnc => [.number]
  | .flagTest => [.number, .number]
  | .flagMerge => [.number, .number, .number]
  | .dtDec => [.bytes]
  | .dtEnc => [.dateTime]
  | .almDec => [.chip, .bytes]
  | .almEnc => [.chip, .alarm]
  | .freqDec => [.chip, .number]
  | .freqEnc => [.chip, .number, .number]
  | .map => [.chip, .accessor]
  | .bind => [.chip, .devAddr]
  | .dtRead => []
  | .dtWrite => [.dateTime]
  | .flagGet => [.accessor]
  | .flagSet => [.accessor, .number]
  | .freqGet => []
  | .freqSet => [.number]
  | .memRead => [.number]
  | .memWrite => [.number, .bytes]
  | .almRead => []
  | .almWrite => [.alarm]
  | .reset => []
  | .rflagGet => [.number, .number]
  | .rflagSet => [.number, .number, .number]

/-- R88: the mnemonics. -/
def mnemonics : List (Text × Opcode) :=
  [("BCD.DEC".toList, .bcdDec), ("BCD.ENC".toList, .bcdEnc), ("FLAG.TEST".toList, .flagTest),
   ("FLAG.MERGE".toList, .flagMerge), ("DT.DEC".toList, .dtDec), ("DT.ENC".toList, .dtEnc),
   ("ALM.DEC".toList, .almDec), ("ALM.ENC".toList, .almEnc), ("FREQ.DEC".toList, .freqDec),
   ("FREQ.ENC".toList, .freqEnc), ("MAP".toList, .map), ("BIND".toList, .bind), ("DT.READ".toList, .dtRead),
   ("DT.WRITE".toList, .dtWrite), ("FLAG.GET".toList, .flagGet), ("FLAG.SET".toList, .flagSet),
   ("FREQ.GET".toList, .freqGet), ("FREQ.SET".toList, .freqSet), ("MEM.READ".toList, .memRead),
   ("MEM.WRITE".toList, .memWrite), ("ALM.READ".toList, .almRead), ("ALM.WRITE".toList, .almWrite),
   ("RESET".toList, .reset), ("RFLAG.GET".toList, .rflagGet), ("RFLAG.SET".toList, .rflagSet)]

/-- R94: a pseudo-instruction from its name and its operands' texts. -/
def readPseudo (name : Text) (args : List Text) : Option Pseudo :=
  let number (t : Text) : Option Byte := (readNumber t).bind numberByte
  let flag (t : Text) : Option Bool := (readNumber t).bind numberFlag
  let either (get : Pseudo) (set : Bool → Pseudo) : Option Pseudo :=
    match args with
    | [] => some get
    | [v] => (flag v).map set
    | _ => none
  let only (get : Pseudo) : Option Pseudo := if args.isEmpty then some get else none
  if name = "DATETIME".toList then
    match args with
    | [] => some .dateTime
    | [dt] => (readDateTime dt).map fun t => .dateTimeSet (dateTextValue t)
    | _ => none
  else if name = "ISRUNNING".toList then only .isRunning
  else if name = "LOSTPOWER".toList then either .lostPower .lostPowerSet
  else if name = "ALARM".toList then either .alarm .alarmSet
  else if name = "STOP".toList then either .stop .stopSet
  else if name = "BATTERYLOW".toList then only .batteryLow
  else if name = "PINFREQ".toList then
    match args with
    | [] => some .pinFreq
    | [hz] => ((readNumber hz).bind numberInt32).map .pinFreqSet
    | _ => none
  else if name = "MEMORY".toList then
    match args with
    | [a] => (number a).map .memory
    | [a, bs] => (number a).bind fun a => (readBytes bs).map fun bs => .memorySet a bs
    | _ => none
  else if name = "ALARMTIME".toList then
    match args with
    | [] => some .alarmTime
    | [al] => (readAlarm al).map .alarmTimeSet
    | _ => none
  else if name = "FLAG".toList then
    match args with
    | [r, m] => (number r).bind fun r => (number m).map fun m => .flag r m
    | [r, m, v] => (number r).bind fun r => (number m).bind fun m => (flag v).map fun v => .flagSet r m v
    | _ => none
  else none

/-- R91, R94: an assembler line: a mnemonic or a pseudo-instruction, then its operands. -/
def assembleLine (line : String) : Option Instr :=
  let t := trimText line.toList
  let name := t.takeWhile (· != ' ')
  let rest := trimText (t.dropWhile (· != ' '))
  let args := if rest.isEmpty then [] else (splitOperands 0 rest).map trimText
  match mnemonics.find? fun m => m.1 = name with
  | some m => (readOperands (operandKinds m.2) args).bind fun xs => assemble m.2 xs
  | none => (readPseudo name args).map expandPseudo

end Sys2Proof.Machine
end

