-- ==== Sys2Proof/Tests/Slice0.lean ====
section
/-! SUPPORT. Small tests, with results taken from the spec's own vectors (95_test_vectors.md) unless a comment
says otherwise, and for every statement with hypotheses a concrete state and operands that meet them. -/

namespace Sys2Proof.Tests

open Sys2Proof.Machine

/-! ### Small states and what a step answers on them -/

/-- The address the tests bind to. -/
def addr : DevAddr := ⟨104⟩

/-- A `READY` block of a variant with these device registers and this schedule. -/
def bound (v : Variant) (dev : Memory) (bus : List BusEvent := []) : State :=
  { State.reset with life := .ready, chip := some v, devAddr := some addr, dev := dev, bus := bus }

/-- A transaction that fails, with the marked bytes of a write having landed. -/
def failing (landed : List Bool) : BusEvent := ⟨[], .fail ⟨9⟩ landed⟩

/-- The command word `w` with payload `p` ends with response `r`, transactions `tr` and device registers `dev`. -/
def answers (s : State) (w : Word) (p : Value) (r : Response) (tr : List Transaction) (dev : Memory) : Bool :=
  match step { s with host := [.command ⟨w, p⟩] } with
  | .next t => decide (t.responses = [r] ∧ t.trace = tr ∧ t.dev = dev)
  | .fault _ => false
  | .refused _ => false

/-- A pure command on an `UNBOUND` block. -/
def answersUnbound (w : Word) (p : Value) (r : Response) : Bool := answers State.reset w p r [] []

/-- The status of the first response of a step. -/
def statusOf (s : State) (w : Word) (p : Value) : Option (BitVec 4) :=
  match step { s with host := [.command ⟨w, p⟩] } with
  | .next t => t.responses.head?.map Response.status
  | .fault _ => none
  | .refused _ => none

def sampleDate : DateTime := ⟨2024, 3, 15, 5, 13, 45, 30, 123⟩
def sampleDateRead : DateTime := ⟨2024, 3, 15, 5, 13, 45, 30, 0⟩
def sampleBytes : List Byte := [0x30, 0x45, 0x13, 0x05, 0x15, 0x03, 0x24]
def sampleAlarm : AlarmFields := ⟨some 30, none, none, none⟩
def sampleAlarmBytes : List Byte := [0x30, 0x80, 0x80, 0xC0]

/-! ### Well-formedness refuses each ill-formed term -/

theorem test_wf_dtDec_six_bytes : (Instr.dtDec [0, 0, 0, 0, 0, 0]).wf = false := by decide
theorem test_wf_dtDec_eight_bytes : (Instr.dtDec (List.replicate 8 0)).wf = false := by decide
theorem test_wf_almDec_three_bytes : (Instr.almDec .pcf8523 [0, 0, 0]).wf = false := by decide
theorem test_wf_almDec_five_bytes : (Instr.almDec .pcf8523 [0, 0, 0, 0, 0]).wf = false := by decide
theorem test_wf_dtDec : (Instr.dtDec sampleBytes).wf = true := by decide

/-! ### Words written out from the spec's encodings (30_encoding.md R88 and each command's rule) -/

theorem test_word_bcdDec : decode ⟨0x00590001, .none⟩ = .ok (.bcdDec 0x59) := by decide
theorem test_word_bcdEnc : decode ⟨0x00000002, .int32 45⟩ = .ok (.bcdEnc 45) := by decide
theorem test_word_flagTest : decode ⟨0x03010003, .none⟩ = .ok (.flagTest 0x01 0x03) := by decide
theorem test_word_flagMerge : decode ⟨0x10002004, .none⟩ = .ok (.flagMerge 0x00 0x10 true) := by decide
theorem test_word_dtDec : decode ⟨0x00000005, .bytes sampleBytes⟩ = .ok (.dtDec sampleBytes) := by decide
theorem test_word_dtEnc : decode ⟨0x00000006, .dateTime sampleDate⟩ = .ok (.dtEnc sampleDate) := by decide
theorem test_word_almDec :
    decode ⟨0x00000307, .bytes sampleAlarmBytes⟩ = .ok (.almDec .pcf8523 sampleAlarmBytes) := by decide
theorem test_word_almEnc :
    decode ⟨0x00000308, .alarmFields sampleAlarm⟩ = .ok (.almEnc .pcf8523 sampleAlarm) := by decide
theorem test_word_freqDec : decode ⟨0x00110109, .none⟩ = .ok (.freqDec .ds1307 0x11) := by decide
theorem test_word_freqEnc : decode ⟨0x009C020A, .int32 4096⟩ = .ok (.freqEnc .ds3231 0x9C 4096) := by decide
theorem test_word_map : decode ⟨0x00000F0B, .none⟩ = .ok (.map .pcf8523 .stop) := by decide
theorem test_word_bind : decode ⟨0x00000310, .devAddr addr⟩ = .ok (.bind .pcf8523 addr) := by decide
theorem test_word_dtRead : decode ⟨0x00000011, .none⟩ = .ok .dtRead := by decide
theorem test_word_dtWrite : decode ⟨0x00000012, .dateTime sampleDate⟩ = .ok (.dtWrite sampleDate) := by decide
theorem test_word_flagGet : decode ⟨0x00001013, .none⟩ = .ok (.flagGet .batteryLow) := by decide
theorem test_word_flagSet : decode ⟨0x00002C14, .none⟩ = .ok (.flagSet .stop true) := by decide
theorem test_word_freqGet : decode ⟨0x00000015, .none⟩ = .ok .freqGet := by decide
theorem test_word_freqSet : decode ⟨0x00000016, .int32 (-1)⟩ = .ok (.freqSet (-1)) := by decide
theorem test_word_memRead : decode ⟨0x00370017, .none⟩ = .ok (.memRead 55) := by decide
theorem test_word_memWrite : decode ⟨0x00360018, .bytes [1, 2]⟩ = .ok (.memWrite 54 [1, 2]) := by decide
theorem test_word_almRead : decode ⟨0x00000019, .none⟩ = .ok .almRead := by decide
theorem test_word_almWrite : decode ⟨0x0000001A, .alarmFields sampleAlarm⟩ = .ok (.almWrite sampleAlarm) := by decide
theorem test_word_reset : decode ⟨0x0000001B, .none⟩ = .ok .reset := by decide
theorem test_word_rflagGet : decode ⟨0x800F001C, .none⟩ = .ok (.rflagGet 0x0F 0x80) := by decide
theorem test_word_rflagSet : decode ⟨0x1020201D, .none⟩ = .ok (.rflagSet 0x20 0x10 true) := by decide

/-- 30_encoding.md R88's words, the other way round. -/
theorem test_encode_words :
    (encode (.flagSet .alarm true)).word = 0x00002814 ∧ (encode (.map .ds3231 .lostPower)).word = 0x0000060B ∧
      (encode (.freqEnc .pcf8523 0xC7 1000)).word = 0x00C7030A ∧
      (encode (.rflagSet 0x0F 0x80 false)).word = 0x800F001D := by decide

/-! ### Illegal commands (95_test_vectors.md 2.1, 2.2, 2.6), by the name of the case -/

theorem test_ill_opcode_zero : decode ⟨0x00000000, .none⟩ = .error .reservedOpcode := by decide
theorem test_ill_opcode_between : decode ⟨0x0000000C, .none⟩ = .error .reservedOpcode := by decide
theorem test_ill_opcode_above : decode ⟨0x0000001E, .none⟩ = .error .reservedOpcode := by decide
theorem test_ill_opcode_last : decode ⟨0x000000FF, .none⟩ = .error .reservedOpcode := by decide
theorem test_ill_mask_unused : decode ⟨0x01590001, .none⟩ = .error .unusedField := by decide
theorem test_ill_rsv_low : decode ⟨0x00004001, .none⟩ = .error .reservedBits := by decide
theorem test_ill_rsv_high : decode ⟨0x00008011, .none⟩ = .error .reservedBits := by decide
theorem test_ill_chip_unused : decode ⟨0x00000111, .none⟩ = .error .unusedField := by decide
theorem test_ill_chip_missing : decode ⟨0x00000010, .devAddr addr⟩ = .error .chipMissing := by decide
theorem test_ill_accessor : decode ⟨0x00001413, .none⟩ = .error .reservedAccessor := by decide
theorem test_ill_accessor_seven : decode ⟨0x00001F0B, .none⟩ = .error .reservedAccessor := by decide
theorem test_ill_val_unused : decode ⟨0x00002013, .none⟩ = .error .unusedField := by decide
theorem test_ill_six_bytes : decode ⟨0x00000005, .bytes [0, 0, 0, 0, 0, 0]⟩ = .error .payloadType := by decide
theorem test_ill_payload : decode ⟨0x00000011, .int32 0⟩ = .error .payloadType := by decide

/-- 60_exceptions.md R261: decoding comes before the binding. -/
theorem test_ill_before_unbound : answersUnbound 0x00001413 .none (.error .ill) = true := by decide

/-! ### The commands, each against the spec's vectors (95_test_vectors.md 2.1 to 2.5) -/

theorem test_bcdDec_59 : answersUnbound 0x00590001 .none (.ok (.int32 59)) = true := by decide
theorem test_bcdDec_nondigit : answersUnbound 0x00FF0001 .none (.ok (.int32 165)) = true := by decide
theorem test_bcdEnc_45 : answersUnbound 0x00000002 (.int32 45) (.ok (.byte 0x45)) = true := by decide
theorem test_bcdEnc_99 : answersUnbound 0x00000002 (.int32 99) (.ok (.byte 0x99)) = true := by decide
theorem test_flagTest_not_all : answersUnbound 0x03010003 .none (.ok (.bool false)) = true := by decide
theorem test_flagTest_empty_mask : answersUnbound 0x00000003 .none (.ok (.bool true)) = true := by decide
theorem test_flagMerge_clear : answersUnbound 0x10FF0004 .none (.ok (.byte 0xEF)) = true := by decide
theorem test_flagMerge_set : answersUnbound 0x10002004 .none (.ok (.byte 0x10)) = true := by decide
theorem test_dtDec : answersUnbound 0x00000005 (.bytes sampleBytes) (.ok (.dateTime sampleDateRead)) = true := by
  decide
theorem test_dtDec_nondigit :
    answersUnbound 0x00000005 (.bytes [0xFF, 0x00, 0x00, 0x00, 0x01, 0x01, 0xFF])
      (.ok (.dateTime ⟨2165, 1, 1, 0, 0, 0, 165, 0⟩)) = true := by decide
theorem test_dtEnc : answersUnbound 0x00000006 (.dateTime sampleDate) (.ok (.bytes sampleBytes)) = true := by decide
theorem test_dtEnc_bit_seven :
    answersUnbound 0x00000006 (.dateTime ⟨2024, 3, 15, 5, 13, 45, 85, 0⟩)
      (.ok (.bytes [0x85, 0x45, 0x13, 0x05, 0x15, 0x03, 0x24])) = true := by decide
theorem test_almDec :
    answersUnbound 0x00000307 (.bytes [0xFF, 0x46, 0x80, 0x46])
      (.ok (.alarmFields ⟨none, some 46, none, some 46⟩)) = true := by decide
theorem test_almDec_cap : answersUnbound 0x00000207 (.bytes sampleAlarmBytes) (.error .cap) = true := by decide
theorem test_almEnc :
    answersUnbound 0x00000308 (.alarmFields sampleAlarm) (.ok (.bytes sampleAlarmBytes)) = true := by decide
theorem test_almEnc_set_weekday :
    answersUnbound 0x00000308 (.alarmFields ⟨some 15, some 8, some 1, some 3⟩)
      (.ok (.bytes [0x15, 0x08, 0x01, 0x03])) = true := by decide
theorem test_freqDec_field_zero : answersUnbound 0x00C70309 .none (.ok (.int32 32000)) = true := by decide
theorem test_freqDec_miss : answersUnbound 0x00910109 .none (.error (.pattern 0x91)) = true := by decide
theorem test_freqEnc_keeps_stop : answersUnbound 0x009C020A (.int32 4096) (.ok (.byte 0x90)) = true := by decide
theorem test_freqEnc_value :
    answersUnbound 0x0000030A (.int32 16384) (.error (.value [32000, 16000, 8000, 4000, 1000, 32, 1, 0])) = true := by
  decide
theorem test_map_running : answersUnbound 0x0000010B .none (.ok (.mapEntry ⟨0x00, 0x80, .ro, true⟩)) = true := by
  decide
theorem test_map_cap : answersUnbound 0x0000090B .none (.error .cap) = true := by decide

theorem test_bind_pcf8523 :
    answers { State.reset with dev := [(0x02, 0xE4)] } 0x00000310 (.devAddr addr) (.ok .none)
      [.read addr 0x02 [0xE4], .write addr 0x02 [0x04]] [(0x02, 0x04)] = true := by decide
/-- 95_test_vectors.md 2.7: the write fails and nothing of it lands; the block stays unbound. -/
theorem test_bind_write_fails :
    (match exec (.bind .pcf8523 addr) { State.reset with dev := [(0x02, 0xE4)], bus := [quietEvent, failing []] } with
    | .next t => decide (t.life = .unbound ∧ t.chip = none ∧ t.devAddr = none ∧ t.dev = [(0x02, 0xE4)])
    | .fault _ => false
    | .refused _ => false) = true := by decide
theorem test_dtRead_pcf8523 :
    answers (bound .pcf8523 (Memory.writeBytes [] 3 sampleBytes)) 0x00000011 .none (.ok (.dateTime sampleDateRead))
      [.read addr 0x03 sampleBytes] (Memory.writeBytes [] 3 sampleBytes) = true := by decide
theorem test_dtWrite_ds3231 :
    answers (bound .ds3231 [(0x0F, 0x8F)]) 0x00000012 (.dateTime sampleDate) (.ok .none)
      [.read addr 0x0F [0x8F], .write addr 0x0F [0x0F], .write addr 0x00 sampleBytes]
      (Memory.writeBytes [(0x0F, 0x0F)] 0 sampleBytes) = true := by decide
/-- 95_test_vectors.md 2.7: the 7-byte write fails half way; the flag clear remains. -/
theorem test_dtWrite_fails_half_way :
    answers (bound .ds3231 [(0x00, 0xAA), (0x01, 0xBB), (0x0F, 0x8F)] [quietEvent, quietEvent, failing [true]])
      0x00000012 (.dateTime sampleDate) (.error (.xport ⟨9⟩))
      [.read addr 0x0F [0x8F], .write addr 0x0F [0x0F], .writeFailed addr 0x00 sampleBytes ⟨9⟩]
      [(0x00, 0x30), (0x01, 0xBB), (0x0F, 0x0F)] = true := by decide
theorem test_flagGet_running :
    answers (bound .ds1307 [(0x00, 0x80)]) 0x00000013 .none (.ok (.bool false)) [.read addr 0x00 [0x80]]
      [(0x00, 0x80)] = true := by decide
theorem test_flagGet_alarm_needs_both :
    answers (bound .ds3231 [(0x0F, 0x01)]) 0x00000813 .none (.ok (.bool false)) [.read addr 0x0F [0x01]]
      [(0x0F, 0x01)] = true := by decide
theorem test_flagSet_stop :
    answers (bound .ds3231 [(0x0E, 0x1C)]) 0x00002C14 .none (.ok .none)
      [.read addr 0x0E [0x1C], .write addr 0x0E [0x9C]] [(0x0E, 0x9C)] = true := by decide
theorem test_flagSet_read_only :
    answers (bound .ds3231 []) 0x00000414 .none (.error .cap) [] [] = true := by decide
theorem test_freqGet_ds3231 :
    answers (bound .ds3231 [(0x0E, 0x90)]) 0x00000015 .none (.ok (.int32 4096)) [.read addr 0x0E [0x90]]
      [(0x0E, 0x90)] = true := by decide
theorem test_freqGet_miss :
    answers (bound .ds3231 [(0x0E, 0x9C)]) 0x00000015 .none (.error (.pattern 0x9C)) [.read addr 0x0E [0x9C]]
      [(0x0E, 0x9C)] = true := by decide
theorem test_freqSet_pcf8523 :
    answers (bound .pcf8523 [(0x0F, 0xC7)]) 0x00000016 (.int32 1000) (.ok .none)
      [.read addr 0x0F [0xC7], .write addr 0x0F [0xE7]] [(0x0F, 0xE7)] = true := by decide
theorem test_freqSet_ds1307_no_read :
    answers (bound .ds1307 [(0x07, 0xFF)]) 0x00000016 (.int32 0) (.ok .none) [.write addr 0x07 [0x80]]
      [(0x07, 0x80)] = true := by decide
theorem test_memRead_zero :
    answers (bound .ds1307 [(0x08, 0xA5)]) 0x00000017 .none (.ok (.byte 0xA5)) [.read addr 0x08 [0xA5]]
      [(0x08, 0xA5)] = true := by decide
theorem test_memRead_56 : answers (bound .ds1307 []) 0x00380017 .none (.error .range) [] [] = true := by decide
theorem test_memWrite_54 :
    answers (bound .ds1307 []) 0x00360018 (.bytes [1, 2]) (.ok .none) [.write addr 0x3E [1, 2]]
      [(0x3E, 1), (0x3F, 2)] = true := by decide
theorem test_memWrite_55_two : answers (bound .ds1307 []) 0x00370018 (.bytes [3, 4]) (.error .range) [] [] = true := by
  decide
theorem test_almRead :
    answers (bound .pcf8523 (Memory.writeBytes [] 10 sampleAlarmBytes)) 0x00000019 .none
      (.ok (.alarmFields sampleAlarm)) [.read addr 0x0A sampleAlarmBytes]
      (Memory.writeBytes [] 10 sampleAlarmBytes) = true := by decide
theorem test_almRead_cap : answers (bound .ds3231 []) 0x00000019 .none (.error .cap) [] [] = true := by decide
theorem test_almWrite :
    answers (bound .pcf8523 []) 0x0000001A (.alarmFields sampleAlarm) (.ok .none) [.write addr 0x0A sampleAlarmBytes]
      [(0x0A, 0x30), (0x0B, 0x80), (0x0C, 0x80), (0x0D, 0xC0)] = true := by decide
theorem test_reset_pcf8523 :
    answers (bound .pcf8523 [(0x02, 0xFF)]) 0x0000001B .none (.ok .none)
      [.write addr 0x00 [0x58], .read addr 0x02 [0xFF], .write addr 0x02 [0x1F]] [(0x00, 0x58), (0x02, 0x1F)] = true := by
  decide
theorem test_reset_init_fails :
    answers (bound .pcf8523 [(0x02, 0xFF)] [quietEvent, failing []]) 0x0000001B .none (.error (.xport ⟨9⟩))
      [.write addr 0x00 [0x58], .readFailed addr 0x02 1 ⟨9⟩] [(0x00, 0x58), (0x02, 0xFF)] = true := by decide
theorem test_rflagGet :
    answers (bound .ds3231 [(0x0F, 0x88)]) 0x800F001C .none (.ok (.bool true)) [.read addr 0x0F [0x88]]
      [(0x0F, 0x88)] = true := by decide
theorem test_rflagSet :
    answers (bound .ds3231 [(0x0F, 0x8F)]) 0x800F001D .none (.ok .none)
      [.read addr 0x0F [0x8F], .write addr 0x0F [0x0F]] [(0x0F, 0x0F)] = true := by decide

/-- 95_test_vectors.md P5: the environment's write between the read and the write is lost. -/
theorem test_lost_update :
    answers (bound .ds3231 [(0x0E, 0x00)] [quietEvent, ⟨[(0x0E, 0x10)], .ok⟩]) 0x00002C14 .none (.ok .none)
      [.read addr 0x0E [0x00], .write addr 0x0E [0x80]] [(0x0E, 0x80)] = true := by decide

/-- 95_test_vectors.md 2.6: the order of the checks. -/
theorem test_check_order :
    statusOf State.reset 0x00000011 .none = some 7 ∧ statusOf (bound .ds3231 []) 0x00380017 .none = some 3 ∧
      statusOf State.reset 0x00000016 (.int32 500) = some 7 ∧
      statusOf (bound .ds3231 []) 0x00000310 (.devAddr addr) = some 8 := by decide

/-- 70_reset_and_hazards.md R305: a transaction that is never answered. -/
theorem test_never_answered :
    (match step { bound .ds3231 [] [⟨[], .never⟩] with host := [.command ⟨0x00000011, .none⟩] } with
    | .next _ => false
    | .fault f => decide (f = .transportNeverAnswers)
    | .refused _ => false) = true := by decide

/-- 70_reset_and_hazards.md R290: the block's reset input. -/
theorem test_block_reset :
    step { bound .ds3231 [(0x0E, 0x90)] with host := [.reset] } = .next { State.reset with dev := [(0x0E, 0x90)] } := by
  rfl

/-- 30_encoding.md R92, 95_test_vectors.md S10 and P4: assembler lines. -/
theorem test_asm_date_only : assembleLine "DT.ENC 2024-03-15" = some (.dtEnc ⟨2024, 3, 15, 0, 0, 0, 0, 0⟩) := by decide
theorem test_asm_date_full : assembleLine "DT.ENC 2024-03-15 wd5 13:45:30.123" = some (.dtEnc sampleDate) := by decide
theorem test_asm_bytes : assembleLine "MEM.WRITE 54, [0x01, 2]" = some (.memWrite 54 [1, 2]) := by decide
theorem test_asm_pseudo : assembleLine "LOSTPOWER 1" = some (.flagSet .lostPower true) := by decide
theorem test_asm_byte_too_large : assembleLine "BCD.DEC 256" = none := by decide

/-- The host's fixed names: the table word and the fetch. -/
theorem test_table_word : decodeTableWord 32 0x00590001 = some (.bcdDec 0x59) := by decide
theorem test_fetch_word :
    (match step (State.reset.withFetchWord 32 0x00590001) with
    | .next t => decide (t.responses = [.ok (.int32 59)])
    | .fault _ => false
    | .refused _ => false) = true := by decide

/-! ### Witnesses: for each statement with hypotheses, a state and operands that meet them

`witness_X_y` meets the hypotheses of clause y of `Obligations.X`, at a boundary where the clause has one. -/

/-- A state a step gave. -/
def next? (o : Host.Outcome State Fault Refusal) : Option State :=
  match o with
  | .next t => some t
  | .fault _ => none
  | .refused _ => none

theorem witness_DecodeOfEncodeIsIdentity :
    (Instr.dtDec sampleBytes).wf = true ∧ (Instr.almDec .ds1307 sampleAlarmBytes).wf = true ∧
      Instr.reset.wf = true := by decide

theorem witness_DecodedCommandIsItsOnlyEncoding : decode ⟨0x1020201D, .none⟩ = .ok (.rflagSet 0x20 0x10 true) := by
  decide

theorem witness_IllegalCommandsEndWithEIll_reserved :
    ∀ opc ∈ ([0x00, 0x0C, 0x0F, 0x1E, 0xFF] : List Nat),
      opc % 256 = 0 ∨ (0x0C ≤ opc % 256 ∧ opc % 256 ≤ 0x0F) ∨ 0x1E ≤ opc % 256 := by decide

/-- The six cases of R82, each with a command in it. -/
theorem witness_IllegalCommandsEndWithEIll_cases :
    illegalCommand ⟨0x0000000C, .none⟩ ∧ illegalCommand ⟨0x00004001, .none⟩ ∧ illegalCommand ⟨0x01590001, .none⟩ ∧
      illegalCommand ⟨0x00000010, .devAddr addr⟩ ∧ illegalCommand ⟨0x00001413, .none⟩ ∧
      illegalCommand ⟨0x00000005, .bytes []⟩ :=
  ⟨.inl fun op => by cases op <;> decide, .inr (.inl (by decide)),
    .inr (.inr ⟨.bcdDec, by decide, .inl (by decide)⟩), .inr (.inr ⟨.bind, by decide, .inr (.inl (by decide))⟩),
    .inr (.inr ⟨.flagGet, by decide, .inr (.inr (.inl (by decide)))⟩),
    .inr (.inr ⟨.dtDec, by decide, .inr (.inr (.inr (by decide)))⟩)⟩

/-- A command that is in none of them. -/
theorem witness_IllegalCommandsEndWithEIll_legal : ¬illegalCommand ⟨0x00590001, .none⟩ := by
  rintro (h | h | ⟨op, ho, h⟩)
  · exact h .bcdDec rfl
  · exact h rfl
  · have hop : op = .bcdDec := by
      revert ho
      cases op <;> decide
    subst hop
    revert h
    decide

theorem witness_StepRunsTheDecodedCommand :
    { State.reset with host := [.command ⟨0x00590001, .none⟩, .reset] }.host =
        HostInput.command ⟨0x00590001, .none⟩ :: [.reset] ∧
      decode ⟨0x00590001, .none⟩ = .ok (.bcdDec 0x59) ∧ State.reset.host = [] := ⟨rfl, rfl, rfl⟩

theorem witness_BlockResetClearsOnlyTheBinding :
    ({ bound .pcf8523 [] with host := [.reset] } : State).host = HostInput.reset :: [] := rfl

theorem witness_BcdDecodeCompletes :
    ((0x99 : Byte).toNat / 16 ≤ 9 ∧ (0x99 : Byte).toNat % 16 ≤ 9) ∧
      ¬((0x0A : Byte).toNat / 16 ≤ 9 ∧ (0x0A : Byte).toNat % 16 ≤ 9) ∧ defaultParams.bcdDecNonDigit = .formula ∧
      { defaultParams with bcdDecNonDigit := .any }.bcdDecNonDigit = .any := by decide

theorem witness_BcdEncodeCompletes :
    (0 ≤ (0 : INT32).toInt ∧ (0 : INT32).toInt ≤ 99) ∧ (0 ≤ (99 : INT32).toInt ∧ (99 : INT32).toInt ≤ 99) ∧
      ¬(0 ≤ (100 : INT32).toInt ∧ (100 : INT32).toInt ≤ 99) ∧
      ¬(0 ≤ (-1 : INT32).toInt ∧ (-1 : INT32).toInt ≤ 99) := by decide

theorem witness_BcdCommandsAreInverse :
    (0 ≤ (99 : INT32).toInt ∧ (99 : INT32).toInt ≤ 99) ∧
      ((0x99 : Byte).toNat / 16 ≤ 9 ∧ (0x99 : Byte).toNat % 16 ≤ 9) := by decide

theorem witness_BcdCodecIsOneToOneOnDigits :
    ((0 : Int) ≤ 0 ∧ (0 : Int) ≤ 99) ∧ ((0 : Int) ≤ 99 ∧ (99 : Int) ≤ 99) ∧ digitValid 0x99 = true ∧
      digitValid 0xFF = false ∧ defaultParams.bcdDecNonDigit = .formula ∧
      bcdDecode defaultParams 0 0x42 = bcdDecode defaultParams 1 0x42 := by decide

theorem witness_DateTimeDecodeCompletes :
    ([0, 0, 0, 0, 0, 0] : List Byte).length ≠ 7 ∧ INT32.holds ((bcdDecode defaultParams 0 0xFF).toInt + 2000) := by
  decide

theorem witness_DateTimeSurvivesTheCodec : dateTimeOnWire ⟨2099, 99, 0, 99, 0, 99, 0, 77⟩ := by
  unfold dateTimeOnWire
  decide

theorem witness_AlarmDecodeCompletes :
    Variant.pcf8523 = .pcf8523 ∧ Variant.ds1307 ≠ .pcf8523 ∧ (0x80 : Byte).getLsbD 7 = true ∧
      (0x7F : Byte).getLsbD 7 = false := by decide

theorem witness_AlarmEncodeCompletes : Variant.pcf8523 = .pcf8523 ∧ Variant.ds3231 ≠ .pcf8523 := by decide

/-- R82 cases 4 and 5, the hypotheses of `NeedsChip` and `NeedsAccessor`. -/
theorem witness_NeedsChip_NeedsAccessor :
    (⟨0x0B, 0, 5, 0, 0, 0, 0⟩ : Fields).opc = 0x0B ∧ (⟨0x0B, 0, 5, 0, 0, 0, 0⟩ : Fields).chip = 0 ∧
      5 ≤ (⟨0x0B, 0, 5, 0, 0, 0, 0⟩ : Fields).acc.toNat := by decide

theorem witness_AlarmSurvivesTheCodec_to_79 : alarmOnWire ⟨some 79, none, some 0, none⟩ := by
  intro v h
  simp only [Option.some.injEq, reduceCtorEq, false_or, or_false] at h
  rcases h with rfl | rfl <;> decide

theorem witness_AlarmSurvivesTheCodec_from_80 :
    (80 ≤ (80 : INT32).toInt ∧ (80 : INT32).toInt ≤ 99) ∧ (80 ≤ (99 : INT32).toInt ∧ (99 : INT32).toInt ≤ 99) ∧
      (⟨some 80, some 80, some 80, some 80⟩ : AlarmFields).weekday = some 80 := by decide

theorem witness_FlagMergeChangesOnlyTheMask : 0 < 8 ∧ 7 < 8 := by decide

/-- A bound block: the hypotheses most bus statements share. -/
theorem witness_bound :
    ∀ v : Variant, (bound v []).life = .ready ∧ (bound v []).chip = some v ∧ (bound v []).devAddr = some addr :=
  fun _ => ⟨rfl, rfl, rfl⟩

/-- Its next transaction completes, or fails, or the second or third one does. -/
theorem witness_bound_transactions :
    (bound .pcf8523 [] [⟨[(2, 1)], .ok⟩]).nextEvent.answer = .ok ∧
      (bound .pcf8523 [] [failing [true]]).nextEvent.answer = .fail ⟨9⟩ [true] ∧
      ((bound .pcf8523 [] [quietEvent, failing []]).nextEvent.answer = .ok ∧
        (bound .pcf8523 [] [quietEvent, failing []]).takeEvent.nextEvent.answer = .fail ⟨9⟩ []) ∧
      ((bound .pcf8523 [] [quietEvent, quietEvent, failing []]).nextEvent.answer = .ok ∧
        (bound .pcf8523 [] [quietEvent, quietEvent, failing []]).takeEvent.nextEvent.answer = .ok ∧
        (bound .pcf8523 [] [quietEvent, quietEvent, failing []]).takeEvent.takeEvent.nextEvent.answer =
          .fail ⟨9⟩ []) ∧
      ((bound .pcf8523 []).nextEvent.answer = .ok ∧ (bound .pcf8523 []).takeEvent.nextEvent.answer = .ok ∧
        (bound .pcf8523 []).takeEvent.takeEvent.nextEvent.answer = .ok) := by decide

/-- `witness_bound` and `witness_bound_transactions` together, for R142 and R143. -/
theorem witness_RegisterFlagGetCompletes :
    State.reset.life = .unbound ∧
      ((bound .ds3231 []).life = .ready ∧ (bound .ds3231 []).chip = some .ds3231 ∧
        (bound .ds3231 []).devAddr = some addr ∧ (bound .ds3231 []).nextEvent.answer = .ok) ∧
      (bound .ds3231 [] [failing []]).nextEvent.answer = .fail ⟨9⟩ [] := by decide

theorem witness_RegisterFlagSetCompletes :
    State.reset.life = .unbound ∧
      ((bound .ds3231 []).life = .ready ∧ (bound .ds3231 []).chip = some .ds3231 ∧
        (bound .ds3231 []).devAddr = some addr ∧ (bound .ds3231 []).nextEvent.answer = .ok ∧
        (bound .ds3231 []).takeEvent.nextEvent.answer = .ok) ∧
      (bound .ds3231 [] [failing []]).nextEvent.answer = .fail ⟨9⟩ [] ∧
      ((bound .ds3231 [] [quietEvent, failing [true]]).nextEvent.answer = .ok ∧
        (bound .ds3231 [] [quietEvent, failing [true]]).takeEvent.nextEvent.answer = .fail ⟨9⟩ [true]) := by decide

theorem witness_RegisterFlagReadsBackWhatWasSet :
    ((bound .ds1307 [(0xFF, 0x12)]).dev.read (0xFF : RegNum).toNat = some 0x12 ∧
        (bound .ds1307 [(0xFF, 0x12)]).bus = []) ∧
      (bound .ds1307 [(0xFF, 0x12)] [quietEvent, quietEvent, ⟨[(0xFF, 0x34)], .ok⟩]).bus =
        [quietEvent, quietEvent, ⟨[(0xFF, 0x34)], .ok⟩] := by decide

theorem witness_EnvironmentWriteInsideReadModifyWriteIsLost :
    (bound .ds3231 [(0x0E, 0x00)] [quietEvent, ⟨[(0x0E, 0x10)], .ok⟩]).dev.read (0x0E : RegNum).toNat = some 0x00 ∧
      (bound .ds3231 [(0x0E, 0x00)] [quietEvent, ⟨[(0x0E, 0x10)], .ok⟩]).bus =
        quietEvent :: ⟨[(0x0E, 0x10)], .ok⟩ :: [] ∧
      dispatch (bound .ds3231 []).params .ds3231 .stop = some ⟨0x0E, 0x80, .rw, false⟩ ∧
      freqTableWf (freqTable (bound .ds3231 []).params .ds3231) = true ∧
      ⟨8192, 0x18⟩ ∈ (freqTable (bound .ds3231 []).params .ds3231).rows := by decide

/-- Its clauses about the pre-step of `DT.WRITE`, `BIND` and `RESET`. -/
theorem witness_EnvironmentWriteInsideReadModifyWriteIsLost_initialisations :
    ((bound .pcf8523 [(0x02, 0xFF)] [quietEvent, ⟨[(0x02, 0)], .ok⟩, quietEvent]).dev.read (0x02 : RegNum).toNat =
        some 0xFF ∧
      (Variant.pcf8523, (0x02 : RegNum), (0xEF : Byte)) ∈
        [(Variant.ds3231, (0x0F : RegNum), (0x7F : Byte)), (.pcf8523, 0x02, 0xEF)]) ∧
      ({ State.reset with dev := [(0x02, 0xFF)], bus := [quietEvent, ⟨[(0x02, 0)], .ok⟩] }.life = .unbound ∧
        Memory.read [(0x02, 0xFF)] 0x02 = some 0xFF) ∧
      (bound .pcf8523 [(0x02, 0xFF)] [quietEvent, quietEvent, ⟨[(0x02, 0)], .ok⟩]).bus =
        quietEvent :: quietEvent :: ⟨[(0x02, 0)], .ok⟩ :: [] := by decide

/-- The default tables are frequency tables; on the DS3231 a byte hits a row and another misses every row. -/
theorem witness_FrequencyDecodeCompletes :
    (∀ v ∈ [Variant.ds1307, .ds3231, .pcf8523], freqTableWf (freqTable State.reset.params v) = true) ∧
      (⟨4096, 0x10⟩ ∈ (freqTable State.reset.params .ds3231).rows ∧
        (0x10 : Byte) = 0x90 &&& (freqTable State.reset.params .ds3231).mask) ∧
      (∀ row ∈ (freqTable State.reset.params .ds3231).rows,
        row.pattern ≠ 0x9C &&& (freqTable State.reset.params .ds3231).mask) := by decide

theorem witness_FrequencyEncodeCompletes :
    (⟨4000, 0x11⟩ ∈ (freqTable State.reset.params .ds1307).rows ∧
        (freqTable State.reset.params .ds1307).mode = .direct) ∧
      (⟨1000, 0x20⟩ ∈ (freqTable State.reset.params .pcf8523).rows ∧
        (freqTable State.reset.params .pcf8523).mode = .rmw) ∧
      (∀ row ∈ (freqTable State.reset.params .pcf8523).rows, row.key ≠ 16384) := by decide

theorem witness_MapCompletes :
    dispatch defaultParams .pcf8523 .stop = some ⟨0x00, 0x10, .rw, false⟩ ∧
      dispatch defaultParams .ds1307 .alarm = none := by decide

theorem witness_BindCompletes :
    (bound .ds1307 []).life = .ready ∧ State.reset.life = .unbound ∧ Variant.ds3231 ≠ .pcf8523 ∧
      (State.reset.nextEvent.answer = .ok ∧ State.reset.takeEvent.nextEvent.answer = .ok) ∧
      { State.reset with bus := [failing []] }.nextEvent.answer = .fail ⟨9⟩ [] ∧
      ({ State.reset with bus := [quietEvent, failing [true]] }.nextEvent.answer = .ok ∧
        { State.reset with bus := [quietEvent, failing [true]] }.takeEvent.nextEvent.answer = .fail ⟨9⟩ [true]) := by
  decide

theorem witness_DateTimeReadCompletes :
    (Variant.pcf8523, (0x03 : RegNum)) ∈ [(Variant.ds1307, (0x00 : RegNum)), (.ds3231, 0x00), (.pcf8523, 0x03)] ∧
      (bound .pcf8523 []).life = .ready ∧ (bound .pcf8523 []).chip = some .pcf8523 ∧
      (bound .pcf8523 []).devAddr = some addr ∧ (bound .pcf8523 []).nextEvent.answer = .ok ∧
      (bound .pcf8523 [] [failing []]).nextEvent.answer = .fail ⟨9⟩ [] := by decide

/-- Every clause of R204's statement, on each variant; `witness_bound_transactions` has the schedules. -/
theorem witness_DateTimeWriteCompletes :
    (bound .ds1307 []).nextEvent.answer = .ok ∧
      (bound .ds1307 [] [failing [true]]).nextEvent.answer = .fail ⟨9⟩ [true] ∧
      (∀ v ∈ [Variant.ds3231, .pcf8523],
        (bound v []).nextEvent.answer = .ok ∧ (bound v []).takeEvent.nextEvent.answer = .ok ∧
          (bound v []).takeEvent.takeEvent.nextEvent.answer = .ok) ∧
      (Variant.ds3231, (0x0F : RegNum), (0x00 : RegNum), (0x7F : Byte)) ∈
        [(Variant.ds3231, (0x0F : RegNum), (0x00 : RegNum), (0x7F : Byte)), (.pcf8523, 0x02, 0x03, 0xEF)] := by decide

theorem witness_DateTimeReadsBackAsWritten :
    (bound .ds3231 []).bus = [] ∧ dateTimeOnWire ⟨2000, 1, 31, 6, 23, 59, 59, 999⟩ := by
  refine ⟨rfl, ?_⟩
  unfold dateTimeOnWire
  decide

theorem witness_FlagGetCompletes :
    dispatch (bound .ds3231 []).params .ds3231 .running = none ∧
      dispatch (bound .ds3231 []).params .ds3231 .alarm = some ⟨0x0F, 0x03, .rw, false⟩ ∧
      (bound .ds3231 []).nextEvent.answer = .ok ∧
      (bound .ds3231 [] [failing []]).nextEvent.answer = .fail ⟨9⟩ [] := by decide

theorem witness_FlagReadingsByVariant :
    dispatch defaultParams .ds1307 .running = some ⟨0x00, 0x80, .ro, true⟩ ∧
      dispatch defaultParams .ds3231 .lostPower = some ⟨0x0F, 0x80, .ro, false⟩ ∧
      dispatch defaultParams .ds3231 .alarm = some ⟨0x0F, 0x03, .rw, false⟩ ∧
      dispatch defaultParams .ds3231 .stop = some ⟨0x0E, 0x80, .rw, false⟩ ∧
      dispatch defaultParams .pcf8523 .lostPower = some ⟨0x02, 0x10, .rw, false⟩ ∧
      dispatch defaultParams .pcf8523 .alarm = some ⟨0x01, 0x08, .rw, false⟩ ∧
      dispatch defaultParams .pcf8523 .stop = some ⟨0x00, 0x10, .rw, false⟩ ∧
      dispatch defaultParams .pcf8523 .batteryLow = some ⟨0x02, 0x04, .ro, false⟩ := by decide

theorem witness_FlagSetCompletes :
    dispatch (bound .ds3231 []).params .ds3231 .batteryLow = none ∧
      dispatch (bound .ds3231 []).params .ds3231 .lostPower = some ⟨0x0F, 0x80, .ro, false⟩ ∧
      (dispatch (bound .ds3231 []).params .ds3231 .stop = some ⟨0x0E, 0x80, .rw, false⟩ ∧
        (bound .ds3231 []).nextEvent.answer = .ok ∧ (bound .ds3231 []).takeEvent.nextEvent.answer = .ok) ∧
      (bound .ds3231 [] [failing []]).nextEvent.answer = .fail ⟨9⟩ [] ∧
      ((bound .ds3231 [] [quietEvent, failing []]).nextEvent.answer = .ok ∧
        (bound .ds3231 [] [quietEvent, failing []]).takeEvent.nextEvent.answer = .fail ⟨9⟩ []) := by decide

theorem witness_FrequencyGetCompletes :
    let s := bound .ds3231 [(0x0E, 0x90)]
    let m := bound .ds3231 [(0x0E, 0x9C)]
    (Variant.ds3231, (0x0E : RegNum)) ∈ [(Variant.ds1307, (0x07 : RegNum)), (.ds3231, 0x0E), (.pcf8523, 0x0F)] ∧
      freqTableWf (freqTable s.params .ds3231) = true ∧ s.nextEvent.answer = .ok ∧
      (⟨4096, 0x10⟩ ∈ (freqTable s.params .ds3231).rows ∧
        (0x10 : Byte) = s.answerByte 0x0E &&& (freqTable s.params .ds3231).mask) ∧
      (∀ row ∈ (freqTable m.params .ds3231).rows,
        row.pattern ≠ m.answerByte 0x0E &&& (freqTable m.params .ds3231).mask) := by decide

theorem witness_FrequencySetCompletes :
    (Variant.ds1307, (0x07 : RegNum)) ∈ [(Variant.ds1307, (0x07 : RegNum)), (.ds3231, 0x0E), (.pcf8523, 0x0F)] ∧
      freqTableWf (freqTable (bound .ds1307 []).params .ds1307) = true ∧
      ⟨-1, 0x00⟩ ∈ (freqTable (bound .ds1307 []).params .ds1307).rows ∧
      (bound .ds1307 [] [failing []]).nextEvent.answer = .fail ⟨9⟩ [] ∧ Variant.pcf8523 ≠ .ds1307 ∧
      ⟨1000, 0x20⟩ ∈ (freqTable (bound .pcf8523 []).params .pcf8523).rows ∧
      (∀ row ∈ (freqTable (bound .ds1307 []).params .ds1307).rows, row.key ≠ 500) := by decide

theorem witness_FrequencyReadsBackAsSet :
    (bound .ds3231 []).bus = [] ∧ freqTableWf (freqTable (bound .ds3231 []).params .ds3231) = true ∧
      ⟨8192, 0x18⟩ ∈ (freqTable (bound .ds3231 []).params .ds3231).rows := by decide

theorem witness_NvramReadCompletes :
    Variant.pcf8523 ≠ .ds1307 ∧ 56 ≤ (56 : Byte).toNat ∧ (55 : Byte).toNat ≤ 55 ∧
      (bound .ds1307 []).nextEvent.answer = .ok ∧
      (bound .ds1307 [] [failing []]).nextEvent.answer = .fail ⟨9⟩ [] := by decide

theorem witness_NvramWriteCompletes :
    Variant.ds3231 ≠ .ds1307 ∧ (55 < (56 : Byte).toNat ∨ 56 < (56 : Byte).toNat + ([] : List Byte).length) ∧
      (55 < (55 : Byte).toNat ∨ 56 < (55 : Byte).toNat + ([3, 4] : List Byte).length) ∧ (55 : Byte).toNat ≤ 55 ∧
      ([3] : List Byte) ≠ [] ∧ (55 : Byte).toNat + ([3] : List Byte).length ≤ 56 := by decide

theorem witness_NvramReadsBackAsWritten :
    (bound .ds1307 []).bus = [] ∧
      (next? (exec (.memWrite 54 [1, 2]) (bound .ds1307 []))).map State.responses =
        some ((bound .ds1307 []).responses ++ [.ok .none]) ∧ 1 < ([1, 2] : List Byte).length := by decide

theorem witness_AlarmReadCompletes :
    Variant.ds1307 ≠ .pcf8523 ∧ (bound .pcf8523 []).nextEvent.answer = .ok ∧
      (bound .pcf8523 [] [failing []]).nextEvent.answer = .fail ⟨9⟩ [] := by decide

theorem witness_AlarmWriteCompletes :
    Variant.ds1307 ≠ .pcf8523 ∧ (bound .pcf8523 []).nextEvent.answer = .ok ∧
      (bound .pcf8523 [] [failing [true, true]]).nextEvent.answer = .fail ⟨9⟩ [true, true] := by decide

theorem witness_AlarmReadsBackAsWritten : (bound .pcf8523 []).bus = [] ∧ alarmOnWire sampleAlarm := by
  refine ⟨rfl, fun v h => ?_⟩
  simp only [sampleAlarm, Option.some.injEq, reduceCtorEq, or_false] at h
  subst h
  decide

theorem witness_SoftwareResetCompletes :
    Variant.ds3231 ≠ .pcf8523 ∧
      ((bound .pcf8523 []).nextEvent.answer = .ok ∧ (bound .pcf8523 []).takeEvent.nextEvent.answer = .ok ∧
        (bound .pcf8523 []).takeEvent.takeEvent.nextEvent.answer = .ok) ∧
      (bound .pcf8523 [] [failing [true]]).nextEvent.answer = .fail ⟨9⟩ [true] ∧
      (bound .pcf8523 [] [quietEvent, failing []]).takeEvent.nextEvent.answer = .fail ⟨9⟩ [] ∧
      (bound .pcf8523 [] [quietEvent, quietEvent, failing []]).takeEvent.takeEvent.nextEvent.answer =
        .fail ⟨9⟩ [] := by decide

/-- A state that meets the invariant and from which a command runs. -/
theorem witness_StepKeepsInvariant :
    Inv { bound .ds3231 [(0x0F, 0x8F)] with host := [.command ⟨0x800F001D, .none⟩] } ∧
      (next? (step { bound .ds3231 [(0x0F, 0x8F)] with host := [.command ⟨0x800F001D, .none⟩] })).isSome = true := by
  refine ⟨⟨?_, ?_, ?_, ?_⟩, ?_⟩ <;> decide

theorem witness_EveryCommandEndsWithAnAllowedStatus :
    (Instr.freqGet).wf = true ∧ (next? (exec .freqGet (bound .ds3231 [(0x0E, 0x9C)]))).isSome = true := by decide

/-- Commands that end with `E_VALUE`, with `E_XPORT` and with `E_PATTERN`. -/
theorem witness_ErrorsLeaveTheirEffectsOnly :
    (next? (exec (.freqSet 500) (bound .ds1307 []))).map State.responses =
        some ((bound .ds1307 []).responses ++ [.error (.value [4000, 0, -1, 1, 8192, 32768])]) ∧
      (next? (exec .almRead (bound .pcf8523 [] [failing []]))).map State.responses =
        some ((bound .pcf8523 [] [failing []]).responses ++ [.error (.xport ⟨9⟩)]) ∧
      (next? (exec .freqGet (bound .ds3231 [(0x0E, 0x9C)]))).map State.responses =
        some ((bound .ds3231 [(0x0E, 0x9C)]).responses ++ [.error (.pattern 0x9C)]) := by decide

theorem witness_UnboundBusCommandsAreRejected :
    State.reset.life = .unbound ∧ needsBinding .dtRead = true ∧ needsBinding (.rflagSet 0 0 false) = true := by decide

/-- A command that binds and one that leaves the binding. -/
theorem witness_OnlySuccessfulBindWritesTheBinding :
    (next? (exec (.bind .ds3231 addr) State.reset)).map State.life = some .ready ∧
      (next? (exec (.flagTest 1 1) State.reset)).map State.life = some .unbound := by decide

theorem witness_ConfigurationNeverChanges : (next? (step State.reset)).isSome = true := by decide

/-- Runs with every transaction issued, with the first failing, and with none. -/
theorem witness_TransactionsFollowTheirPlan :
    ((next? (exec .reset (bound .pcf8523 [(0x02, 0xFF)]))).map fun t => t.trace.map Transaction.planned) =
        some (busPlan State.reset.params (some .pcf8523) .reset) ∧
      ((next? (exec .reset (bound .pcf8523 [(0x02, 0xFF)] [failing []]))).map fun t =>
        t.trace.map Transaction.planned) = some [.write 0x00 1] ∧
      ((next? (exec .reset (bound .ds1307 []))).map State.trace) = some [] := by decide

theorem witness_TransactionsAddressTheDeviceWithinItsRegisters :
    (next? (exec (.bind .pcf8523 addr) { State.reset with dev := [(2, 0)] })).isSome = true ∧
      (next? (exec (.rflagGet 0xFF 0) (bound .ds1307 [(0xFF, 1)]))).isSome = true := by decide

theorem witness_TransportFailureEndsTheCommand :
    (next? (exec (.almWrite sampleAlarm) (bound .pcf8523 [] [failing [true]]))).map State.responses =
        some [.error (.xport ⟨9⟩)] ∧
      (next? (exec (.almWrite sampleAlarm) (bound .pcf8523 []))).map State.responses = some [.ok .none] := by decide

theorem witness_EveryCommandEndsIfTheTransportAnswers :
    (bound .pcf8523 [] [quietEvent, failing []]).transportAnswers ∧
      (match exec .almRead (bound .pcf8523 [] [⟨[], .never⟩]) with
        | .next _ => none
        | .fault f => some f
        | .refused _ => none) = some .transportNeverAnswers := by
  refine ⟨?_, by decide⟩
  unfold State.transportAnswers
  decide

theorem witness_CommandsStoreOnlyToTheirRegisters :
    (bound .pcf8523 [(0x01, 0x07), (0x02, 0xFF)] [quietEvent, failing []]).undisturbed ∧
      (next? (exec .reset (bound .pcf8523 [(0x01, 0x07), (0x02, 0xFF)] [quietEvent, failing []]))).isSome = true ∧
      ((0x01 < (0x00 : RegNum).toNat ∨ (0x00 : RegNum).toNat + 1 ≤ 0x01) ∧
        (0x01 < (0x02 : RegNum).toNat ∨ (0x02 : RegNum).toNat + 1 ≤ 0x01)) := by
  refine ⟨?_, by decide, by decide⟩
  unfold State.undisturbed
  decide

theorem witness_PureCommandsReadAndTouchNothing :
    isBusCommand (.freqDec .pcf8523 0) = false ∧ (bound .ds1307 [(0, 1)]).params = State.reset.params ∧
      (bound .ds1307 [(0, 1)]).draws = State.reset.draws := by decide

theorem witness_CommandsDoNotReadTheirPast :
    (next? (exec (.rflagSet 0x20 0x10 true) (bound .ds1307 [(0x20, 0x00)]))).isSome = true := by decide

theorem witness_AssemblerReachesExactlyTheWellFormedInstructions :
    assemble .freqEnc [.chip .ds3231, .number 0x9C, .number 4096] = some (.freqEnc .ds3231 0x9C 4096) ∧
      (Instr.freqEnc .ds3231 0x9C 4096).wf = true ∧
      WrittenAs (.rflagSet 0x0F 0x80 true) [.number 0x0F, .number 0x80, .number 1] ∧
      WrittenAs (.dtEnc ⟨2024, 3, 15, 0, 0, 0, 0, 0⟩) [.dateTime ⟨2024, 3, 15, none, none, none, none, none⟩] :=
  ⟨by decide, by decide, rfl, _, rfl, by unfold DateText.StandsFor; decide⟩

end Sys2Proof.Tests
end

section
/-! PROOFS. The make-up of commands. Every command is a sequence of a few primitives (`Cmd.MadeOf`), under at most
one check of the binding (`exec_meaning`). What such sequences do to the state (`Effects`) and what they do not read
(`Cmd.IgnoresPast`) is proved once by induction over the sequence; statements about every instruction follow. -/

namespace Sys2Proof.Machine

/-! ### The make-up of commands -/

/-- The piece `c` is a sequence of primitives, whose transactions, if it has any, all go to the device at `o`. A
read-modify-write counts as one primitive: the byte it holds is not seen outside it (R30). -/
inductive Cmd.MadeOf : Option DevAddr → {α : Type} → Cmd α → Prop
  | ret {o : Option DevAddr} {α : Type} (a : α) : MadeOf o (Cmd.ret a)
  | raise {o : Option DevAddr} {α : Type} (e : Err) : MadeOf o (Cmd.raise (α := α) e)
  | drawIndex {o : Option DevAddr} (k : Nat) : MadeOf o (drawIndex k)
  | readParams {o : Option DevAddr} : MadeOf o readParams
  | memRead (a : DevAddr) (reg : RegNum) (n : Nat) : MadeOf (some a) (memRead a reg n)
  | memWrite (a : DevAddr) (reg : RegNum) (bs : List Byte) : MadeOf (some a) (memWrite a reg bs)
  | rmwByte (a : DevAddr) (reg : RegNum) (f : Byte → Byte) : MadeOf (some a) (rmwByte a reg f)
  | bind {o : Option DevAddr} {α β : Type} {c : Cmd α} {k : α → Cmd β} :
      MadeOf o c → (∀ x, MadeOf o (k x)) → MadeOf o (c.bind k)

section Pieces

variable {o : Option DevAddr}

theorem requireCap_madeOf (b : Bool) : Cmd.MadeOf o (requireCap b) := by
  cases b
  · exact .raise _
  · exact .ret _

theorem requireRange_madeOf (b : Bool) : Cmd.MadeOf o (requireRange b) := by
  cases b
  · exact .raise _
  · exact .ret _

theorem resolve_madeOf (v : Variant) (acc : Accessor) : Cmd.MadeOf o (resolve v acc) := by
  refine .bind .readParams fun p => ?_
  split
  · exact .ret _
  · exact .raise _

theorem requireWritable_madeOf (e : MapEntry) : Cmd.MadeOf o (requireWritable e) := by
  unfold requireWritable
  split
  · exact .ret _
  · exact .raise _

theorem requireFreq_madeOf (T : FreqTable) (hz : INT32) : Cmd.MadeOf o (requireFreq T hz) := by
  unfold requireFreq
  split
  · exact .ret _
  · exact .raise _

theorem decodeFreq_madeOf (T : FreqTable) (x : Byte) : Cmd.MadeOf o (decodeFreq T x) := by
  unfold decodeFreq
  split
  · exact .ret _
  · exact .raise _

theorem decodeDateTime_madeOf (b0 b1 b2 b3 b4 b5 b6 : Byte) :
    Cmd.MadeOf o (decodeDateTime b0 b1 b2 b3 b4 b5 b6) :=
  .bind .readParams fun _ => .bind (.drawIndex _) fun _ => .ret _

theorem encodeDateTime_madeOf (dt : DateTime) : Cmd.MadeOf o (encodeDateTime dt) :=
  .bind (.drawIndex _) fun _ => .ret _

theorem decodeAlarm_madeOf (b0 b1 b2 b3 : Byte) : Cmd.MadeOf o (decodeAlarm b0 b1 b2 b3) :=
  .bind .readParams fun _ => .bind (.drawIndex _) fun _ => .ret _

theorem encodeAlarm_madeOf (al : AlarmFields) : Cmd.MadeOf o (encodeAlarm al) :=
  .bind (.drawIndex _) fun _ => .ret _

theorem readByte_madeOf (a : DevAddr) (reg : RegNum) : Cmd.MadeOf (some a) (readByte a reg) :=
  .bind (.memRead ..) fun _ => .ret _

theorem initControl3_madeOf (a : DevAddr) : Cmd.MadeOf (some a) (initControl3 a) := .rmwByte ..

theorem constructionInit_madeOf (v : Variant) (a : DevAddr) : Cmd.MadeOf (some a) (constructionInit v a) := by
  cases v
  case ds1307 => exact .ret _
  case ds3231 => exact .ret _
  case pcf8523 => exact initControl3_madeOf a

theorem dateTimePreStep_madeOf (b : Binding) : Cmd.MadeOf (some b.addr) (dateTimePreStep b) := by
  unfold dateTimePreStep
  split
  · exact .ret _
  · exact .rmwByte ..
  · exact .rmwByte ..

theorem writeFreq_madeOf (b : Binding) (T : FreqTable) (pat : Byte) :
    Cmd.MadeOf (some b.addr) (writeFreq b T pat) := by
  unfold writeFreq
  split
  · exact .memWrite ..
  · exact .rmwByte ..

end Pieces

/-- The three forms the meaning of an instruction has: a pure command, a bus command behind the check of the binding
(R261 check 3), and `BIND`. -/
inductive Meaning (i : Instr) : Prop
  | pure (c : Cmd Value) (hi : isBusCommand i = false) (hc : Cmd.MadeOf none c)
      (he : ∀ s, exec i s = Cmd.run c s)
  | bound (k : Binding → Cmd Value) (hi : needsBinding i = true)
      (hk : ∀ b : Binding, Cmd.MadeOf (some b.addr) (k b))
      (he : ∀ s, exec i s = Cmd.run (requireBinding.bind k) s)
  | bind (v : Variant) (a : DevAddr) (hi : i = .bind v a)

/-- R88: the meaning of every instruction has one of the three forms. -/
theorem exec_meaning (i : Instr) : Meaning i := by
  cases i with
  | bcdDec b =>
    exact .pure _ rfl (.bind .readParams fun _ => .bind (.drawIndex _) fun _ => .ret _)
      fun s => Eq.refl (execBcdDec b s)
  | bcdEnc v =>
    exact .pure _ rfl (.bind (.drawIndex _) fun _ => .ret _) fun s => Eq.refl (execBcdEnc v s)
  | flagTest b m => exact .pure _ rfl (.ret _) fun _ => rfl
  | flagMerge b m v => exact .pure _ rfl (.ret _) fun _ => rfl
  | dtDec bs =>
    refine .pure _ rfl ?_ fun _ => rfl
    split
    · exact .bind (decodeDateTime_madeOf ..) fun _ => .ret _
    · exact .raise _
  | dtEnc dt => exact .pure _ rfl (.bind (encodeDateTime_madeOf _) fun _ => .ret _) fun _ => rfl
  | almDec chip bs =>
    refine .pure _ rfl ?_ fun _ => rfl
    split
    · exact .bind (requireCap_madeOf _) fun _ => .bind (decodeAlarm_madeOf ..) fun _ => .ret _
    · exact .raise _
  | almEnc chip al =>
    exact .pure _ rfl (.bind (requireCap_madeOf _) fun _ => .bind (encodeAlarm_madeOf _) fun _ => .ret _) fun _ => rfl
  | freqDec chip r =>
    exact .pure _ rfl (.bind .readParams fun _ => .bind (decodeFreq_madeOf ..) fun _ => .ret _) fun _ => rfl
  | freqEnc chip r hz =>
    exact .pure _ rfl (.bind .readParams fun _ => .bind (requireFreq_madeOf ..) fun _ => .ret _) fun _ => rfl
  | map chip acc => exact .pure _ rfl (.bind (resolve_madeOf ..) fun _ => .ret _) fun _ => rfl
  | bind chip a => exact .bind chip a rfl
  | dtRead =>
    exact .bound _ rfl
      (fun _ => .bind (.memRead ..) fun _ => .bind (decodeDateTime_madeOf ..) fun _ => .ret _) fun _ => rfl
  | dtWrite dt =>
    exact .bound _ rfl
      (fun _ => .bind (encodeDateTime_madeOf _) fun _ => .bind (dateTimePreStep_madeOf _) fun _ =>
        .bind (.memWrite ..) fun _ => .ret _) fun _ => rfl
  | flagGet acc =>
    exact .bound _ rfl
      (fun _ => .bind (resolve_madeOf ..) fun _ => .bind (readByte_madeOf ..) fun _ => .ret _) fun _ => rfl
  | flagSet acc v =>
    exact .bound _ rfl
      (fun _ => .bind (resolve_madeOf ..) fun _ => .bind (requireWritable_madeOf _) fun _ =>
        .bind (.rmwByte ..) fun _ => .ret _) fun _ => rfl
  | freqGet =>
    exact .bound _ rfl
      (fun _ => .bind .readParams fun _ => .bind (readByte_madeOf ..) fun _ =>
        .bind (decodeFreq_madeOf ..) fun _ => .ret _) fun _ => rfl
  | freqSet hz =>
    exact .bound _ rfl
      (fun _ => .bind .readParams fun _ => .bind (requireFreq_madeOf ..) fun _ =>
        .bind (writeFreq_madeOf ..) fun _ => .ret _) fun _ => rfl
  | memRead a =>
    exact .bound _ rfl
      (fun _ => .bind (requireCap_madeOf _) fun _ => .bind (requireRange_madeOf _) fun _ =>
        .bind (readByte_madeOf ..) fun _ => .ret _) fun _ => rfl
  | memWrite a bs =>
    refine .bound _ rfl
      (fun _ => .bind (requireCap_madeOf _) fun _ => .bind (requireRange_madeOf _) fun _ =>
        .bind ?_ fun _ => .ret _) fun _ => rfl
    split
    · exact .ret _
    · exact .memWrite ..
  | almRead =>
    exact .bound _ rfl
      (fun _ => .bind (requireCap_madeOf _) fun _ => .bind (.memRead ..) fun _ =>
        .bind (decodeAlarm_madeOf ..) fun _ => .ret _) fun _ => rfl
  | almWrite al =>
    exact .bound _ rfl
      (fun _ => .bind (requireCap_madeOf _) fun _ => .bind (encodeAlarm_madeOf _) fun _ =>
        .bind (.memWrite ..) fun _ => .ret _) fun _ => rfl
  | reset =>
    exact .bound _ rfl
      (fun _ => .bind (requireCap_madeOf _) fun _ => .bind (.memWrite ..) fun _ =>
        .bind (initControl3_madeOf _) fun _ => .ret _) fun _ => rfl
  | rflagGet r m => exact .bound _ rfl (fun _ => .bind (readByte_madeOf ..) fun _ => .ret _) fun _ => rfl
  | rflagSet r m v => exact .bound _ rfl (fun _ => .bind (.rmwByte ..) fun _ => .ret _) fun _ => rfl

/-- On a bound block the check of the binding passes. -/
theorem run_requireBinding_bound {k : Binding → Cmd Value} {s : State} {b : Binding} (h : s.binding = some b) :
    Cmd.run (requireBinding.bind k) s = Cmd.run (k b) s := by
  simp [Cmd.run, Cmd.bind_done (requireBinding_bound h)]

/-- R261 check 3: on a block that is not bound the command ends there. -/
theorem run_requireBinding_unbound {k : Binding → Cmd Value} {s : State} (h : s.binding = none) :
    Cmd.run (requireBinding.bind k) s = .next (s.respond (.error .unbound)) :=
  Cmd.run_raised (Cmd.bind_raised (requireBinding_unbound h))

/-! ### What commands do to the state -/

/-- One effect of a piece of a command on the state. Transactions go to the device at `o` and stay within its
registers (R60). -/
inductive Effect : Option DevAddr → State → State → Prop
  | reserve {o : Option DevAddr} (s : State) (k : Nat) : Effect o s (s.reserve k)
  | hold {o : Option DevAddr} (s : State) (x : Option Byte) : Effect o s (s.hold x)
  | read (s : State) (a : DevAddr) {reg : RegNum} {n : Nat} (hn : 1 ≤ n) (hr : reg.toNat + n ≤ 256) :
      Effect (some a) s (s.afterRead a reg n)
  | failedRead (s : State) (a : DevAddr) {reg : RegNum} {n : Nat} (e : XErr) (hn : 1 ≤ n)
      (hr : reg.toNat + n ≤ 256) : Effect (some a) s (s.afterFailedRead a reg n e)
  | write (s : State) (a : DevAddr) {reg : RegNum} {bs : List Byte} (hn : 1 ≤ bs.length)
      (hr : reg.toNat + bs.length ≤ 256) : Effect (some a) s (s.afterWrite a reg bs)
  | failedWrite (s : State) (a : DevAddr) {reg : RegNum} {bs : List Byte} (e : XErr) (landed : List Bool)
      (hn : 1 ≤ bs.length) (hr : reg.toNat + bs.length ≤ 256) :
      Effect (some a) s (s.afterFailedWrite a reg bs e landed)

/-- Effects one after another. -/
abbrev Effects (o : Option DevAddr) : State → State → Prop := Relation.ReflTransGen (Effect o)

/-- `Cmd.Keeps` at one state. -/
def Cmd.KeepsAt {α : Type} (R : State → State → Prop) (c : Cmd α) (s : State) : Prop :=
  (∀ a t, c s = .done a t → R s t) ∧ (∀ e t, c s = .raised e t → R s t)

theorem Cmd.keeps_iff_keepsAt {α : Type} {R : State → State → Prop} {c : Cmd α} :
    Cmd.Keeps R c ↔ ∀ s, Cmd.KeepsAt R c s := Iff.rfl

theorem Cmd.keepsAt_done {α : Type} {R : State → State → Prop} {c : Cmd α} {s t : State} {a : α}
    (h : c s = .done a t) (hR : R s t) : Cmd.KeepsAt R c s := by
  simp [Cmd.KeepsAt, h, hR]

theorem Cmd.keepsAt_raised {α : Type} {R : State → State → Prop} {c : Cmd α} {s t : State} {e : Err}
    (h : c s = .raised e t) (hR : R s t) : Cmd.KeepsAt R c s := by
  simp [Cmd.KeepsAt, h, hR]

theorem Cmd.keepsAt_stopped {α : Type} {R : State → State → Prop} {c : Cmd α} {s : State} {f : Fault}
    (h : c s = .stopped f) : Cmd.KeepsAt R c s := by
  simp [Cmd.KeepsAt, h]

theorem memRead_effects (a : DevAddr) (reg : RegNum) (n : Nat) : Cmd.Keeps (Effects (some a)) (memRead a reg n) := by
  refine Cmd.keeps_iff_keepsAt.2 fun s => ?_
  by_cases h : 1 ≤ n ∧ reg.toNat + n ≤ 256
  · obtain ⟨hn, hr⟩ := h
    rcases memRead_cases (a := a) (s := s) hn hr with ⟨hs, -⟩ | ⟨e, landed, hs, -⟩ | ⟨hs, -⟩
    · exact Cmd.keepsAt_done hs (.single (.read s a hn hr))
    · exact Cmd.keepsAt_raised hs (.single (.failedRead s a e hn hr))
    · exact Cmd.keepsAt_stopped hs
  · exact Cmd.keepsAt_stopped (memRead_outside h)

theorem memWrite_effects (a : DevAddr) (reg : RegNum) (bs : List Byte) :
    Cmd.Keeps (Effects (some a)) (memWrite a reg bs) := by
  refine Cmd.keeps_iff_keepsAt.2 fun s => ?_
  by_cases h : 1 ≤ bs.length ∧ reg.toNat + bs.length ≤ 256
  · obtain ⟨hn, hr⟩ := h
    rcases memWrite_cases (a := a) (s := s) hn hr with ⟨hs, -⟩ | ⟨e, landed, hs, -⟩ | ⟨hs, -⟩
    · exact Cmd.keepsAt_done hs (.single (.write s a hn hr))
    · exact Cmd.keepsAt_raised hs (.single (.failedWrite s a e landed hn hr))
    · exact Cmd.keepsAt_stopped hs
  · exact Cmd.keepsAt_stopped (memWrite_outside h)

theorem readByte_effects (a : DevAddr) (reg : RegNum) : Cmd.Keeps (Effects (some a)) (readByte a reg) :=
  Cmd.keeps_bind .trans (memRead_effects a reg 1) fun _ => Cmd.keeps_ret (fun _ => .refl) _

theorem holdByte_effects (o : Option DevAddr) (x : Option Byte) : Cmd.Keeps (Effects o) (holdByte x) :=
  Cmd.keeps_iff_keepsAt.2 fun s => Cmd.keepsAt_done rfl (.single (.hold s x))

theorem writeHeld_effects (a : DevAddr) (reg : RegNum) (f : Byte → Byte) :
    Cmd.Keeps (Effects (some a)) (writeHeld a reg f) :=
  fun s => memWrite_effects a reg (s.rmwLocal.toList.map f) s

theorem rmwByte_effects (a : DevAddr) (reg : RegNum) (f : Byte → Byte) :
    Cmd.Keeps (Effects (some a)) (rmwByte a reg f) :=
  Cmd.keeps_bind .trans (readByte_effects a reg) fun _ =>
    Cmd.keeps_bind .trans (holdByte_effects _ _) fun _ =>
      Cmd.keeps_bind .trans (writeHeld_effects a reg f) fun _ => holdByte_effects _ _

/-- Every piece of a command goes from the state before to the state after by effects. -/
theorem Cmd.MadeOf.effects {o : Option DevAddr} {α : Type} {c : Cmd α} (h : Cmd.MadeOf o c) :
    Cmd.Keeps (Effects o) c := by
  induction h with
  | ret a => exact Cmd.keeps_ret (fun _ => .refl) a
  | raise e => exact Cmd.keeps_raise (fun _ => .refl) e
  | drawIndex k => exact Cmd.keeps_iff_keepsAt.2 fun s => Cmd.keepsAt_done rfl (.single (.reserve s k))
  | readParams => exact Cmd.keeps_iff_keepsAt.2 fun _ => Cmd.keepsAt_done rfl .refl
  | memRead a reg n => exact memRead_effects a reg n
  | memWrite a reg bs => exact memWrite_effects a reg bs
  | rmwByte a reg f => exact rmwByte_effects a reg f
  | bind _ _ hc hk => exact Cmd.keeps_bind .trans hc hk

/-- R23, R200: the device an instruction's transactions go to: the payload's address for `BIND`, DEVADDR for the
other bus commands, none for a pure command. -/
def target (s : State) : Instr → Option DevAddr
  | .bind _ a => some a
  | i => if needsBinding i then s.devAddr else none

theorem isBusCommand_of_needsBinding {i : Instr} (h : needsBinding i = true) : isBusCommand i = true := by
  unfold needsBinding at h
  split at h
  · cases h
  · exact h

theorem target_of_pure {i : Instr} (s : State) (h : isBusCommand i = false) : target s i = none := by
  unfold target
  split
  · cases h
  · refine if_neg fun hn => ?_
    simp [isBusCommand_of_needsBinding hn] at h

theorem target_of_needsBinding {i : Instr} (s : State) (h : needsBinding i = true) : target s i = s.devAddr := by
  unfold target
  split
  · cases h
  · exact if_pos h

theorem target_eq_some_iff {i : Instr} {s : State} {a : DevAddr} :
    target s i = some a ↔ (∃ v, i = .bind v a) ∨ (needsBinding i = true ∧ s.devAddr = some a) := by
  unfold target
  split
  · simp [needsBinding]
  · next hbind =>
    have hnot : ¬∃ v, i = .bind v a := fun ⟨v, hi⟩ => hbind v a hi
    simp [hnot]

/-- R200: everything a `BIND` that answers can do. -/
theorem execBind_next {v : Variant} {a : DevAddr} {s t : State} (h : exec (.bind v a) s = .next t) :
    (∃ u r, Effects (some a) s u ∧ t = u.respond r) ∨
    (s.life = .unbound ∧ ∃ u, Effects (some a) s u ∧ t = (u.commit v a).respond (.ok .none)) := by
  change execBind v a s = .next t at h
  rcases hl : s.life with _ | _
  · have heff := (constructionInit_madeOf v a).effects s
    rw [execBind, Cmd.run, Cmd.bind_done (requireUnbound_unbound hl)] at h
    rcases hs : constructionInit v a s with ⟨x, u⟩ | ⟨e, u⟩ | f
    · rw [Cmd.bind_done hs] at h
      exact .inr ⟨rfl, u, heff.1 x u hs, (Host.Outcome.next.inj h).symm⟩
    · rw [Cmd.bind_raised hs] at h
      exact .inl ⟨u, _, heff.2 e u hs, (Host.Outcome.next.inj h).symm⟩
    · rw [Cmd.bind_stopped hs] at h
      cases h
  · rw [execBind, Cmd.run_raised (Cmd.bind_raised (requireUnbound_ready hl))] at h
    exact .inl ⟨s, _, .refl, (Host.Outcome.next.inj h).symm⟩

/-- Everything a command that answers can do: effects on its target and a response, and before the response of a
successful `BIND` of an `UNBOUND` block the binding is committed. -/
theorem exec_next {i : Instr} {s t : State} (h : exec i s = .next t) :
    (∃ u r, Effects (target s i) s u ∧ t = u.respond r) ∨
    (∃ v a u, i = .bind v a ∧ s.life = .unbound ∧ Effects (target s i) s u ∧
      t = (u.commit v a).respond (.ok .none)) := by
  cases exec_meaning i with
  | pure c hi hc he =>
    rw [he] at h
    rw [target_of_pure s hi]
    exact .inl (Cmd.next_of_keeps hc.effects h)
  | bound k hi hk he =>
    rw [he] at h
    rw [target_of_needsBinding s hi]
    rcases hb : s.binding with _ | b
    · rw [run_requireBinding_unbound hb] at h
      exact .inl ⟨s, _, .refl, (Host.Outcome.next.inj h).symm⟩
    · obtain ⟨-, -, haddr⟩ := State.ready_of_binding hb
      rw [run_requireBinding_bound hb] at h
      rw [haddr]
      exact .inl (Cmd.next_of_keeps (hk b).effects h)
  | bind v a hi =>
    subst hi
    rcases execBind_next h with hnext | ⟨hl, u, hu, ht⟩
    · exact .inl hnext
    · exact .inr ⟨v, a, u, rfl, hl, hu, ht⟩

/-! ### What effects keep -/

/-- The parts of the state that no effect of a command changes. -/
structure SameFrame (s t : State) : Prop where
  life : t.life = s.life
  chip : t.chip = s.chip
  devAddr : t.devAddr = s.devAddr
  params : t.params = s.params
  responses : t.responses = s.responses

theorem Effect.sameFrame {o : Option DevAddr} {s t : State} (h : Effect o s t) : SameFrame s t := by
  cases h <;> exact ⟨rfl, rfl, rfl, rfl, rfl⟩

theorem Effects.sameFrame {o : Option DevAddr} {s t : State} (h : Effects o s t) : SameFrame s t := by
  induction h with
  | refl => exact ⟨rfl, rfl, rfl, rfl, rfl⟩
  | tail _ hlast ih =>
    have hf := hlast.sameFrame
    exact ⟨hf.life.trans ih.life, hf.chip.trans ih.chip, hf.devAddr.trans ih.devAddr,
      hf.params.trans ih.params, hf.responses.trans ih.responses⟩

/-- R50: every effect keeps the canonical form of the device register file. -/
theorem Effect.wf_dev {o : Option DevAddr} {s t : State} (h : Effect o s t) (hs : s.dev.wf = true) :
    t.dev.wf = true := by
  have henv : s.takeEvent.dev.wf = true := Memory.wf_change _ hs
  cases h with
  | reserve => exact hs
  | hold => exact hs
  | read => exact henv
  | failedRead => exact henv
  | write _ _ _ hr => exact Memory.wf_writeBytes _ hr henv
  | failedWrite _ _ _ _ _ hr => exact Memory.wf_writeLanded _ hr henv

theorem Effects.wf_dev {o : Option DevAddr} {s t : State} (h : Effects o s t) (hs : s.dev.wf = true) :
    t.dev.wf = true := by
  induction h with
  | refl => exact hs
  | tail _ hlast ih => exact hlast.wf_dev ih

/-- R60: a planned transaction is of at least one register and does not pass 0xFF. -/
def Planned.WithinRegisters : Planned → Prop
  | .read r n => 1 ≤ n ∧ r.toNat + n ≤ 256
  | .write r n => 1 ≤ n ∧ r.toNat + n ≤ 256

/-- An effect adds at most one transaction, to its target and within its registers. -/
theorem Effect.trace {o : Option DevAddr} {s t : State} (h : Effect o s t) :
    ∃ trs, t.trace = s.trace ++ trs ∧ ∀ x ∈ trs, o = some x.addr ∧ x.planned.WithinRegisters := by
  cases h with
  | reserve => exact ⟨[], by simp⟩
  | hold => exact ⟨[], by simp⟩
  | read _ _ hn hr =>
    exact ⟨[_], rfl, by simp [Transaction.addr, Transaction.planned, Planned.WithinRegisters, hn, hr]⟩
  | failedRead _ _ _ hn hr => exact ⟨[_], rfl, List.forall_mem_singleton.2 ⟨rfl, hn, hr⟩⟩
  | write _ _ hn hr => exact ⟨[_], rfl, List.forall_mem_singleton.2 ⟨rfl, hn, hr⟩⟩
  | failedWrite _ _ _ _ hn hr => exact ⟨[_], rfl, List.forall_mem_singleton.2 ⟨rfl, hn, hr⟩⟩

theorem Effects.trace {o : Option DevAddr} {s t : State} (h : Effects o s t) :
    ∃ trs, t.trace = s.trace ++ trs ∧ ∀ x ∈ trs, o = some x.addr ∧ x.planned.WithinRegisters := by
  induction h with
  | refl => exact ⟨[], by simp⟩
  | tail _ hlast ih =>
    obtain ⟨before, hbefore, hall⟩ := ih
    obtain ⟨last, hlast, hall'⟩ := hlast.trace
    refine ⟨before ++ last, by rw [hlast, hbefore, List.append_assoc], fun x hx => ?_⟩
    exact (List.mem_append.1 hx).elim (hall x) (hall' x)

/-! ### Steps -/

theorem step_of_no_input {s : State} (h : s.host = []) : step s = .next s := by
  simp [step, State.takeInput_nil h]

theorem step_of_reset {s : State} {rest : List HostInput} (h : s.host = .reset :: rest) :
    step s = .next { s with host := rest }.blockReset := by
  simp [step, State.takeInput_cons h]

theorem step_of_legal {s : State} {c : Command} {rest : List HostInput} {i : Instr}
    (h : s.host = .command c :: rest) (hc : decode c = .ok i) : step s = exec i { s with host := rest } := by
  simp [step, State.takeInput_cons h, runCommand, hc]

theorem step_of_illegal {s : State} {c : Command} {rest : List HostInput} {e : DecodeError}
    (h : s.host = .command c :: rest) (hc : decode c = .error e) :
    step s = .next { s with host := rest }.rejectIllegal := by
  simp [step, State.takeInput_cons h, runCommand, hc]

/-- R21: everything a step that answers can be. -/
theorem step_next {s t : State} (h : step s = .next t) :
    t = s ∨ (∃ rest, t = { s with host := rest }.blockReset) ∨
    (∃ rest, t = { s with host := rest }.rejectIllegal) ∨
    (∃ i rest, exec i { s with host := rest } = .next t) := by
  rcases hh : s.host with _ | ⟨c | _, rest⟩
  · rw [step_of_no_input hh] at h
    exact .inl (Host.Outcome.next.inj h).symm
  · rcases hc : decode c with e | i
    · rw [step_of_illegal hh hc] at h
      exact .inr (.inr (.inl ⟨rest, (Host.Outcome.next.inj h).symm⟩))
    · rw [step_of_legal hh hc] at h
      exact .inr (.inr (.inr ⟨i, rest, h⟩))
  · rw [step_of_reset hh] at h
    exact .inr (.inl ⟨rest, (Host.Outcome.next.inj h).symm⟩)

/-- R26: no command changes the configuration. -/
theorem exec_params {i : Instr} {s t : State} (h : exec i s = .next t) : t.params = s.params := by
  rcases exec_next h with ⟨u, r, hu, rfl⟩ | ⟨v, a, u, -, -, hu, rfl⟩
  · exact hu.sameFrame.params
  · exact hu.sameFrame.params

/-- R22 to R25: the agreement of LIFE, CHIP and DEVADDR is about these three registers only. -/
theorem State.bindingAgrees_of_sameFrame {s t : State} (h : SameFrame s t) : t.bindingAgrees = s.bindingAgrees := by
  simp [State.bindingAgrees, h.life, h.chip, h.devAddr]

/-- Every command keeps the invariant. -/
theorem exec_keeps_inv {i : Instr} {s t : State} (hs : Inv s) (h : exec i s = .next t) : Inv t := by
  rcases exec_next h with ⟨u, r, hu, rfl⟩ | ⟨v, a, u, -, -, hu, rfl⟩
  · exact ⟨(State.bindingAgrees_of_sameFrame hu.sameFrame).trans hs.binding, rfl, hu.wf_dev hs.device,
      hu.sameFrame.params ▸ hs.tables⟩
  · exact ⟨rfl, rfl, hu.wf_dev hs.device, hu.sameFrame.params ▸ hs.tables⟩

/-! ### What commands do not read -/

/-- The state with another byte held, other responses given and other transactions issued. -/
def State.withPast (s : State) (x : Option Byte) (rs : List Response) (tr : List Transaction) : State :=
  { s with rmwLocal := x, responses := rs, trace := tr }

/-- Two outcomes of a piece, the first from `s` and the second from a state with responses `rs` and trace `tr`, that
differ in the byte held, the responses and the trace only: neither has a new response, both have the same new
transactions. -/
inductive EndsAlike (s : State) (rs : List Response) (tr : List Transaction) {α : Type} :
    CmdOut α → CmdOut α → Prop
  | done (a : α) {t : State} (y : Option Byte) (new : List Transaction) (hr : t.responses = s.responses)
      (ht : t.trace = s.trace ++ new) : EndsAlike s rs tr (.done a t) (.done a (t.withPast y rs (tr ++ new)))
  | raised (e : Err) {t : State} (y : Option Byte) (new : List Transaction) (hr : t.responses = s.responses)
      (ht : t.trace = s.trace ++ new) : EndsAlike s rs tr (.raised e t) (.raised e (t.withPast y rs (tr ++ new)))
  | stopped (f : Fault) : EndsAlike s rs tr (.stopped f) (.stopped f)

/-- The piece `c` reads neither the byte held before it nor the responses nor the trace. -/
def Cmd.IgnoresPast {α : Type} (c : Cmd α) : Prop :=
  ∀ (s : State) (x : Option Byte) (rs : List Response) (tr : List Transaction),
    EndsAlike s rs tr (c s) (c (s.withPast x rs tr))

/-- A piece that goes on with nothing new in the responses and the trace ends alike. -/
theorem EndsAlike.done_same {s t : State} {x : Option Byte} {rs : List Response} {tr : List Transaction} {α : Type}
    (a : α) (hr : t.responses = s.responses) (ht : t.trace = s.trace) :
    EndsAlike s rs tr (.done a t) (.done a (t.withPast x rs tr)) := by
  simpa using EndsAlike.done (s := s) (rs := rs) (tr := tr) a x [] hr (by simpa using ht)

theorem EndsAlike.raised_same {s : State} {x : Option Byte} {rs : List Response} {tr : List Transaction} {α : Type}
    (e : Err) : EndsAlike (α := α) s rs tr (.raised e s) (.raised e (s.withPast x rs tr)) := by
  simpa using EndsAlike.raised (s := s) (t := s) (rs := rs) (tr := tr) (α := α) e x [] rfl (by simp)

/-- What comes after a piece that ended alike. -/
theorem EndsAlike.after {s t : State} {rs : List Response} {tr new : List Transaction} {α : Type}
    {out out' : CmdOut α} (hr : t.responses = s.responses) (ht : t.trace = s.trace ++ new)
    (h : EndsAlike t rs (tr ++ new) out out') : EndsAlike s rs tr out out' := by
  cases h with
  | done a y new' hr' ht' =>
    rw [List.append_assoc]
    exact .done a y _ (hr'.trans hr) (by rw [ht', ht, List.append_assoc])
  | raised e y new' hr' ht' =>
    rw [List.append_assoc]
    exact .raised e y _ (hr'.trans hr) (by rw [ht', ht, List.append_assoc])
  | stopped f => exact .stopped f

theorem Cmd.IgnoresPast.ret {α : Type} (a : α) : Cmd.IgnoresPast (Cmd.ret a) :=
  fun _ _ _ _ => .done_same a rfl rfl

theorem Cmd.IgnoresPast.raise {α : Type} (e : Err) : Cmd.IgnoresPast (Cmd.raise (α := α) e) :=
  fun _ _ _ _ => .raised_same e

theorem Cmd.IgnoresPast.bind {α β : Type} {c : Cmd α} {k : α → Cmd β} (hc : Cmd.IgnoresPast c)
    (hk : ∀ a, Cmd.IgnoresPast (k a)) : Cmd.IgnoresPast (c.bind k) := by
  intro s x rs tr
  have hfirst := hc s x rs tr
  unfold Cmd.bind
  generalize c s = out, c (s.withPast x rs tr) = out' at hfirst
  cases hfirst with
  | done a y new hr ht => exact .after hr ht (hk a _ y rs (tr ++ new))
  | raised e y new hr ht => exact .raised e y new hr ht
  | stopped f => exact .stopped f

theorem memRead_ignoresPast (a : DevAddr) (reg : RegNum) (n : Nat) : Cmd.IgnoresPast (memRead a reg n) := by
  intro s x rs tr
  by_cases h : 1 ≤ n ∧ reg.toNat + n ≤ 256
  · obtain ⟨hn, hr⟩ := h
    rcases memRead_cases (a := a) (s := s) hn hr with ⟨hs, hev⟩ | ⟨e, landed, hs, hev⟩ | ⟨hs, hev⟩
    · rw [hs, memRead_ok hn hr (s := s.withPast x rs tr) hev]
      exact .done _ x [_] rfl rfl
    · rw [hs, memRead_fail hn hr (s := s.withPast x rs tr) hev]
      exact .raised _ x [_] rfl rfl
    · rw [hs, memRead_never hn hr (s := s.withPast x rs tr) hev]
      exact .stopped _
  · rw [memRead_outside h, memRead_outside h]
    exact .stopped _

theorem memWrite_ignoresPast (a : DevAddr) (reg : RegNum) (bs : List Byte) :
    Cmd.IgnoresPast (memWrite a reg bs) := by
  intro s x rs tr
  by_cases h : 1 ≤ bs.length ∧ reg.toNat + bs.length ≤ 256
  · obtain ⟨hn, hr⟩ := h
    rcases memWrite_cases (a := a) (s := s) hn hr with ⟨hs, hev⟩ | ⟨e, landed, hs, hev⟩ | ⟨hs, hev⟩
    · rw [hs, memWrite_ok hn hr (s := s.withPast x rs tr) hev]
      exact .done _ x [_] rfl rfl
    · rw [hs, memWrite_fail hn hr (s := s.withPast x rs tr) hev]
      exact .raised _ x [_] rfl rfl
    · rw [hs, memWrite_never hn hr (s := s.withPast x rs tr) hev]
      exact .stopped _
  · rw [memWrite_outside h, memWrite_outside h]
    exact .stopped _

/-- R30: a read-modify-write writes back the byte of its own read, whatever was held before it. -/
theorem rmwByte_eq (a : DevAddr) (reg : RegNum) (f : Byte → Byte) :
    rmwByte a reg f =
      (readByte a reg).bind fun b => Cmd.bind (fun s => memWrite a reg [f b] (s.hold (some b))) fun _ =>
        holdByte none := rfl

theorem rmwByte_ignoresPast (a : DevAddr) (reg : RegNum) (f : Byte → Byte) :
    Cmd.IgnoresPast (rmwByte a reg f) := by
  rw [rmwByte_eq]
  refine .bind (.bind (memRead_ignoresPast a reg 1) fun b => .ret (b 0)) fun b => .bind ?_ fun _ => ?_
  · intro s x rs tr
    refine .after (t := s.hold (some b)) (new := []) rfl (List.append_nil _).symm ?_
    rw [List.append_nil]
    exact memWrite_ignoresPast a reg [f b] (s.hold (some b)) (some b) rs tr
  · exact fun s _ rs tr => .done_same (t := s.hold none) (x := none) () rfl rfl

theorem requireBinding_ignoresPast : Cmd.IgnoresPast requireBinding := by
  intro s x rs tr
  rcases hb : s.binding with _ | b
  · rw [requireBinding_unbound hb, requireBinding_unbound (s := s.withPast x rs tr) hb]
    exact .raised_same _
  · rw [requireBinding_bound hb, requireBinding_bound (s := s.withPast x rs tr) hb]
    exact .done_same b rfl rfl

theorem requireUnbound_ignoresPast : Cmd.IgnoresPast requireUnbound := by
  intro s x rs tr
  rcases hl : s.life with _ | _
  · rw [requireUnbound_unbound hl, requireUnbound_unbound (s := s.withPast x rs tr) hl]
    exact .done_same () rfl rfl
  · rw [requireUnbound_ready hl, requireUnbound_ready (s := s.withPast x rs tr) hl]
    exact .raised_same _

theorem commitBinding_ignoresPast (v : Variant) (a : DevAddr) : Cmd.IgnoresPast (commitBinding v a) :=
  fun s _ _ _ => .done_same (t := s.commit v a) () rfl rfl

/-- No piece of a command reads what came before the command. -/
theorem Cmd.MadeOf.ignoresPast {o : Option DevAddr} {α : Type} {c : Cmd α} (h : Cmd.MadeOf o c) :
    Cmd.IgnoresPast c := by
  induction h with
  | ret a => exact .ret a
  | raise e => exact .raise e
  | drawIndex k => exact fun s _ _ _ => .done_same (t := s.reserve k) s.draws rfl rfl
  | readParams => exact fun s _ _ _ => .done_same s.params rfl rfl
  | memRead a reg n => exact memRead_ignoresPast a reg n
  | memWrite a reg bs => exact memWrite_ignoresPast a reg bs
  | rmwByte a reg f => exact rmwByte_ignoresPast a reg f
  | bind _ _ hc hk => exact hc.bind hk

/-- Every instruction runs a command that does not read its past. -/
theorem exec_ignoresPast (i : Instr) : ∃ c, Cmd.IgnoresPast c ∧ ∀ s, exec i s = Cmd.run c s := by
  cases exec_meaning i with
  | pure c _ hc he => exact ⟨c, hc.ignoresPast, he⟩
  | bound k _ hk he => exact ⟨_, requireBinding_ignoresPast.bind fun b => (hk b).ignoresPast, he⟩
  | bind v a hi =>
    subst hi
    refine ⟨_, requireUnbound_ignoresPast.bind fun _ => ?_, fun _ => rfl⟩
    exact (constructionInit_madeOf v a).ignoresPast.bind fun _ =>
      (commitBinding_ignoresPast v a).bind fun _ => .ret _

/-- A whole command that does not read its past gives the same response and issues the same transactions; the byte
held at its end is gone with the response, so that nothing of the past is left to differ in. -/
theorem Cmd.IgnoresPast.run_next {c : Cmd Value} (hc : Cmd.IgnoresPast c) {s t : State} (x : Option Byte)
    (rs : List Response) (tr : List Transaction) (h : Cmd.run c s = .next t) :
    ∃ r trs, t.responses = s.responses ++ [r] ∧ t.trace = s.trace ++ trs ∧
      Cmd.run c (s.withPast x rs tr) = .next { t with responses := rs ++ [r], trace := tr ++ trs } := by
  have halike := hc s x rs tr
  unfold Cmd.run at h ⊢
  generalize c s = out, c (s.withPast x rs tr) = out' at h halike
  cases halike with
  | done v y new hr ht =>
    cases h
    exact ⟨.ok v, new, by simp [hr], ht, rfl⟩
  | raised e y new hr ht =>
    cases h
    exact ⟨.error e, new, by simp [hr], ht, rfl⟩
  | stopped f => cases h

/-! ### The statements -/

/-- Settles O46: the step is waiting, the reset input, a rejected command or a command (`step_next`), and each keeps
the invariant. -/
theorem stepKeepsInvariant : Obligations.StepKeepsInvariant := by
  intro s t hs h
  rcases step_next h with rfl | ⟨rest, rfl⟩ | ⟨rest, rfl⟩ | ⟨i, rest, hexec⟩
  · exact hs
  · exact ⟨rfl, rfl, hs.device, hs.tables⟩
  · exact ⟨hs.binding, rfl, hs.device, hs.tables⟩
  · exact exec_keeps_inv (s := { s with host := rest }) ⟨hs.binding, hs.idle, hs.device, hs.tables⟩ hexec

/-- Settles O59: every instruction runs a command that ignores its past. -/
theorem commandsDoNotReadTheirPast : Obligations.CommandsDoNotReadTheirPast := by
  intro i s t x rs tr h
  obtain ⟨c, hc, he⟩ := exec_ignoresPast i
  rw [he] at h ⊢
  exact hc.run_next x rs tr h

/-- Settles O51: effects leave the binding registers alone, and only a `BIND` of an `UNBOUND` block commits. -/
theorem onlySuccessfulBindWritesTheBinding : Obligations.OnlySuccessfulBindWritesTheBinding := by
  intro i s t h
  rcases exec_next h with ⟨u, r, hu, rfl⟩ | ⟨v, a, u, hi, hl, hu, rfl⟩
  · exact .inl ⟨hu.sameFrame.life, hu.sameFrame.chip, hu.sameFrame.devAddr⟩
  · exact .inr ⟨v, a, hi, hl, rfl, rfl, rfl, by simp [hu.sameFrame.responses]⟩

/-- Settles O52: no effect, no commit and no reset input touches the parameters. -/
theorem configurationNeverChanges : Obligations.ConfigurationNeverChanges := by
  intro s t h
  rcases step_next h with rfl | ⟨rest, rfl⟩ | ⟨rest, rfl⟩ | ⟨i, rest, hexec⟩
  · rfl
  · rfl
  · rfl
  · exact exec_params (s := { s with host := rest }) hexec

/-- Settles O54: the transactions of the effects go to the instruction's target, within its registers. -/
theorem transactionsAddressTheDeviceWithinItsRegisters :
    Obligations.TransactionsAddressTheDeviceWithinItsRegisters := by
  intro i s t h
  have htrs : ∃ trs, t.trace = s.trace ++ trs ∧
      ∀ x ∈ trs, target s i = some x.addr ∧ x.planned.WithinRegisters := by
    rcases exec_next h with ⟨u, r, hu, rfl⟩ | ⟨v, a, u, -, -, hu, rfl⟩
    · exact hu.trace
    · exact hu.trace
  obtain ⟨trs, htrace, hall⟩ := htrs
  refine ⟨trs, htrace, fun x hx => ?_⟩
  obtain ⟨haddr, hwithin⟩ := hall x hx
  exact ⟨target_eq_some_iff.1 haddr, hwithin⟩

/-- Settles O4: both parts are equations of `step`. -/
theorem stepRunsTheDecodedCommand : Obligations.StepRunsTheDecodedCommand :=
  ⟨fun _ _ _ _ => step_of_legal, fun _ => step_of_no_input⟩

/-- Settles O47: reset lists no register, and its tables are the default ones. -/
theorem resetStateIsUnbound : Obligations.ResetStateIsUnbound := by
  have htables : paramsWf State.reset.params = true := by decide
  exact ⟨rfl, rfl, rfl, rfl, rfl, rfl, rfl, rfl, htables⟩

/-- Settles O50: a command that needs the binding starts with the check of it. -/
theorem unboundBusCommandsAreRejected : Obligations.UnboundBusCommandsAreRejected := by
  intro i s hl hneeds
  cases exec_meaning i with
  | pure c hi _ _ => simp [isBusCommand_of_needsBinding hneeds] at hi
  | bound k _ _ he => rw [he, run_requireBinding_unbound (State.binding_of_unbound hl)]
  | bind v a hi =>
    subst hi
    cases hneeds

end Sys2Proof.Machine
end

section
/-! PROOFS. Commands and their plans. A piece of a command issues the transactions of a plan, in order, up to the first
that fails (`EndsByPlan`); this is proved once for each primitive and once for sequencing. Every instruction runs a
command that follows its row of the spec's table, `busPlan` (`execFollowsPlan`); the statements about the transactions
a command issues and the registers it stores to follow from that. -/

namespace Sys2Proof.Machine

/-! ### What transactions do to the state -/

/-- R55: in an undisturbed state the next transaction finds the device as it is. -/
theorem State.undisturbed.nextEvent_changes {s : State} (h : s.undisturbed) : s.nextEvent.changes = [] := by
  rcases hb : s.bus with _ | ⟨e, rest⟩
  · rw [State.nextEvent_of_no_schedule hb]
    rfl
  · simpa [State.nextEvent, hb] using h e (by simp [hb])

theorem State.undisturbed.takeEvent_dev {s : State} (h : s.undisturbed) : s.takeEvent.dev = s.dev := by
  rw [State.takeEvent_dev, h.nextEvent_changes]
  rfl

/-- What is left of an undisturbed schedule is undisturbed. -/
theorem State.undisturbed.of_tail {s t : State} (h : s.undisturbed) (hb : t.bus = s.bus.tail) : t.undisturbed :=
  fun e he => h e (List.mem_of_mem_tail (hb ▸ he))

/-- The way from `s` to `t` issues exactly the transactions `trs`. It gives no response and keeps the parameters;
where the environment changes nothing, it changes no device register outside their writes. -/
structure Issues (s : State) (trs : List Transaction) (t : State) : Prop where
  trace : t.trace = s.trace ++ trs
  responses : t.responses = s.responses
  params : t.params = s.params
  undisturbed : s.undisturbed → t.undisturbed
  dev : s.undisturbed → ∀ q, (∀ x ∈ trs, ¬x.planned.writes q) → t.dev.read q = s.dev.read q

theorem Issues.none {s t : State} (htrace : t.trace = s.trace) (hresp : t.responses = s.responses)
    (hparams : t.params = s.params) (hbus : t.bus = s.bus) (hdev : t.dev = s.dev) : Issues s [] t where
  trace := by rw [htrace, List.append_nil]
  responses := hresp
  params := hparams
  undisturbed h := fun e he => h e (hbus ▸ he)
  dev _ _ _ := by rw [hdev]

theorem Issues.refl (s : State) : Issues s [] s := .none rfl rfl rfl rfl rfl

theorem Issues.trans {s t u : State} {xs ys : List Transaction} (h : Issues s xs t) (h' : Issues t ys u) :
    Issues s (xs ++ ys) u where
  trace := by rw [h'.trace, h.trace, List.append_assoc]
  responses := h'.responses.trans h.responses
  params := h'.params.trans h.params
  undisturbed hs := h'.undisturbed (h.undisturbed hs)
  dev hs q hq :=
    calc u.dev.read q
      _ = t.dev.read q := h'.dev (h.undisturbed hs) q fun x hx => hq x (List.mem_append_right _ hx)
      _ = s.dev.read q := h.dev hs q fun x hx => hq x (List.mem_append_left _ hx)

theorem Issues.afterRead (s : State) (a : DevAddr) (reg : RegNum) (n : Nat) :
    Issues s [.read a reg (List.ofFn (s.answer reg n))] (s.afterRead a reg n) where
  trace := rfl
  responses := rfl
  params := rfl
  undisturbed h := h.of_tail rfl
  dev h q _ := by rw [State.afterRead_dev, h.takeEvent_dev]

theorem Issues.afterFailedRead (s : State) (a : DevAddr) (reg : RegNum) (n : Nat) (e : XErr) :
    Issues s [.readFailed a reg n e] (s.afterFailedRead a reg n e) where
  trace := rfl
  responses := rfl
  params := rfl
  undisturbed h := h.of_tail rfl
  dev h q _ := by rw [State.afterFailedRead_dev, h.takeEvent_dev]

/-- A register a planned write does not write lies before or behind its run. -/
theorem Planned.outside_of_not_writes {reg : RegNum} {n q : Nat} (h : ¬(Planned.write reg n).writes q) :
    q < reg.toNat ∨ reg.toNat + n ≤ q := by
  simp only [Planned.writes] at h
  omega

theorem Issues.afterWrite (s : State) (a : DevAddr) (reg : RegNum) (bs : List Byte) :
    Issues s [.write a reg bs] (s.afterWrite a reg bs) where
  trace := rfl
  responses := rfl
  params := rfl
  undisturbed h := h.of_tail rfl
  dev h q hq := by
    have hout := Planned.outside_of_not_writes (hq _ (List.mem_singleton.2 rfl))
    rw [State.afterWrite_dev, h.takeEvent_dev, Memory.read_writeBytes_other bs _ _ _ hout]

/-- R224: so it is for a write that fails (DEDUCED, log entry 14). -/
theorem Issues.afterFailedWrite (s : State) (a : DevAddr) (reg : RegNum) (bs : List Byte) (e : XErr)
    (landed : List Bool) : Issues s [.writeFailed a reg bs e] (s.afterFailedWrite a reg bs e landed) where
  trace := rfl
  responses := rfl
  params := rfl
  undisturbed h := h.of_tail rfl
  dev h q hq := by
    have hout := Planned.outside_of_not_writes (hq _ (List.mem_singleton.2 rfl))
    rw [State.afterFailedWrite_dev, h.takeEvent_dev, Memory.read_writeLanded_other bs _ _ _ _ hout]

/-! ### Pieces that follow a plan -/

/-- The outcomes of a piece that starts in `s` and is to issue the transactions of `plan` (R61, R54): it goes on once
it has issued them all; it ends with a status of its own after some of them; it ends with `E_XPORT` at the first that
fails, with that failure's information. -/
inductive EndsByPlan (s : State) (plan : List Planned) {α : Type} : CmdOut α → Prop
  | done (a : α) {t : State} {trs : List Transaction} (hi : Issues s trs t) (hok : ∀ x ∈ trs, x.failure = none)
      (hplan : trs.map Transaction.planned = plan) : EndsByPlan s plan (.done a t)
  | raised {e : Err} {t : State} {trs : List Transaction} (hi : Issues s trs t) (hok : ∀ x ∈ trs, x.failure = none)
      (hplan : trs.map Transaction.planned <+: plan) (he : ∀ x, e ≠ .xport x) : EndsByPlan s plan (.raised e t)
  | failed {e : XErr} {t : State} {before : List Transaction} {last : Transaction}
      (hi : Issues s (before ++ [last]) t) (hok : ∀ x ∈ before, x.failure = none) (hlast : last.failure = some e)
      (hplan : (before ++ [last]).map Transaction.planned <+: plan) : EndsByPlan s plan (.raised (.xport e) t)
  | stopped (f : Fault) : EndsByPlan s plan (.stopped f)

/-- With the parameters `p` the piece `c` follows `plan`. -/
structure Cmd.Follows (p : Params) (plan : List Planned) {α : Type} (c : Cmd α) : Prop where
  ends : ∀ s : State, s.params = p → EndsByPlan s plan (c s)

/-- What comes after a piece that went on. -/
theorem EndsByPlan.after {s t : State} {P Q : List Planned} {trs : List Transaction} {α : Type} {out : CmdOut α}
    (hi : Issues s trs t) (hok : ∀ x ∈ trs, x.failure = none) (hplan : trs.map Transaction.planned = P)
    (h : EndsByPlan t Q out) : EndsByPlan s (P ++ Q) out := by
  subst hplan
  have hokApp {ys : List Transaction} (hys : ∀ x ∈ ys, x.failure = none) : ∀ x ∈ trs ++ ys, x.failure = none :=
    fun x hx => (List.mem_append.1 hx).elim (hok x) (hys x)
  cases h with
  | done a hi' hok' hplan' => exact .done a (hi.trans hi') (hokApp hok') (by rw [List.map_append, hplan'])
  | raised hi' hok' hplan' he =>
    refine .raised (hi.trans hi') (hokApp hok') ?_ he
    rw [List.map_append]
    exact (List.prefix_append_right_inj _).2 hplan'
  | failed hi' hok' hlast hplan' =>
    refine .failed (by rw [List.append_assoc]; exact hi.trans hi') (hokApp hok') hlast ?_
    rw [List.append_assoc, List.map_append]
    exact (List.prefix_append_right_inj _).2 hplan'
  | stopped f => exact .stopped f

/-- A longer plan allows more. -/
theorem EndsByPlan.extend_of_raised {s t : State} {P : List Planned} {α β : Type} {e : Err} (Q : List Planned)
    (h : EndsByPlan (α := α) s P (.raised e t)) : EndsByPlan (α := β) s (P ++ Q) (.raised e t) := by
  cases h with
  | raised hi hok hplan he => exact .raised hi hok (hplan.trans (List.prefix_append P Q)) he
  | failed hi hok hlast hplan => exact .failed hi hok hlast (hplan.trans (List.prefix_append P Q))

section Pieces

variable {p : Params} {plan : List Planned}

/-- Plans are followed one after the other. -/
theorem Cmd.Follows.bind {P Q : List Planned} {α β : Type} {c : Cmd α} {k : α → Cmd β} (hc : Cmd.Follows p P c)
    (hk : ∀ a, Cmd.Follows p Q (k a)) : Cmd.Follows p (P ++ Q) (c.bind k) := by
  refine ⟨fun s hs => ?_⟩
  have hfirst := hc.ends s hs
  unfold Cmd.bind
  rcases hout : c s with ⟨a, t⟩ | ⟨e, t⟩ | f
  · rw [hout] at hfirst
    cases hfirst with
    | done _ hi hok hplan => exact .after hi hok hplan ((hk a).ends t (hi.params.trans hs))
  · rw [hout] at hfirst
    exact hfirst.extend_of_raised Q
  · exact .stopped f

/-- A check or a draw comes first. -/
theorem Cmd.Follows.of_quiet_first {α β : Type} {c : Cmd α} {k : α → Cmd β} (hc : Cmd.Follows p [] c)
    (hk : ∀ a, Cmd.Follows p plan (k a)) : Cmd.Follows p plan (c.bind k) := hc.bind hk

/-- The transactions come first and the rest issues none. -/
theorem Cmd.Follows.of_quiet_rest {α β : Type} {c : Cmd α} {k : α → Cmd β} (hc : Cmd.Follows p plan c)
    (hk : ∀ a, Cmd.Follows p [] (k a)) : Cmd.Follows p plan (c.bind k) := by
  simpa using hc.bind hk

theorem Cmd.Follows.ret {α : Type} (a : α) : Cmd.Follows p [] (Cmd.ret a) :=
  ⟨fun s _ => .done a (.refl s) (by simp) rfl⟩

/-- A command may end before its first transaction, but not with `E_XPORT`. -/
theorem Cmd.Follows.raise {α : Type} {e : Err} (he : ∀ x, e ≠ .xport x) :
    Cmd.Follows p plan (Cmd.raise (α := α) e) :=
  ⟨fun s _ => .raised (.refl s) (by simp) List.nil_prefix he⟩

theorem drawIndex_follows (k : Nat) : Cmd.Follows p [] (drawIndex k) :=
  ⟨fun _ _ => .done _ (.none rfl rfl rfl rfl rfl) (by simp) rfl⟩

theorem holdByte_follows (x : Option Byte) : Cmd.Follows p [] (holdByte x) :=
  ⟨fun _ _ => .done _ (.none rfl rfl rfl rfl rfl) (by simp) rfl⟩

theorem commitBinding_follows (v : Variant) (a : DevAddr) : Cmd.Follows p [] (commitBinding v a) :=
  ⟨fun _ _ => .done _ (.none rfl rfl rfl rfl rfl) (by simp) rfl⟩

/-- R26: what follows reads the configuration the state has. -/
theorem Cmd.Follows.readParams_bind {β : Type} {k : Params → Cmd β} (hk : Cmd.Follows p plan (k p)) :
    Cmd.Follows p plan (readParams.bind k) := by
  refine ⟨fun s hs => ?_⟩
  subst hs
  exact hk.ends s rfl

theorem memRead_follows (a : DevAddr) (reg : RegNum) (n : Nat) : Cmd.Follows p [.read reg n] (memRead a reg n) := by
  refine ⟨fun s _ => ?_⟩
  by_cases h : 1 ≤ n ∧ reg.toNat + n ≤ 256
  · obtain ⟨hn, hr⟩ := h
    rcases memRead_cases (a := a) (s := s) hn hr with ⟨hs, -⟩ | ⟨e, landed, hs, -⟩ | ⟨hs, -⟩ <;> rw [hs]
    · exact .done _ (.afterRead s a reg n) (List.forall_mem_singleton.2 rfl) (by simp [Transaction.planned])
    · exact .failed (before := []) (.afterFailedRead s a reg n e) (by simp) rfl (List.prefix_refl _)
    · exact .stopped _
  · rw [memRead_outside h]
    exact .stopped _

theorem memWrite_follows (a : DevAddr) (reg : RegNum) (bs : List Byte) :
    Cmd.Follows p [.write reg bs.length] (memWrite a reg bs) := by
  refine ⟨fun s _ => ?_⟩
  by_cases h : 1 ≤ bs.length ∧ reg.toNat + bs.length ≤ 256
  · obtain ⟨hn, hr⟩ := h
    rcases memWrite_cases (a := a) (s := s) hn hr with ⟨hs, -⟩ | ⟨e, landed, hs, -⟩ | ⟨hs, -⟩ <;> rw [hs]
    · exact .done _ (.afterWrite s a reg bs) (List.forall_mem_singleton.2 rfl) rfl
    · exact .failed (before := []) (.afterFailedWrite s a reg bs e landed) (by simp) rfl (List.prefix_refl _)
    · exact .stopped _
  · rw [memWrite_outside h]
    exact .stopped _

theorem readByte_follows (a : DevAddr) (reg : RegNum) : Cmd.Follows p [.read reg 1] (readByte a reg) :=
  .of_quiet_rest (memRead_follows a reg 1) fun _ => .ret _

/-- R62: a read-modify-write is a read of its register and then a write of it. -/
theorem rmwByte_follows (a : DevAddr) (reg : RegNum) (f : Byte → Byte) :
    Cmd.Follows p (rmwPlan reg) (rmwByte a reg f) := by
  have hwrite (b : Byte) :
      Cmd.Follows p [.write reg 1] ((holdByte (some b)).bind fun _ => memWrite a reg [f b]) :=
    .of_quiet_first (holdByte_follows _) fun _ => memWrite_follows a reg [f b]
  rw [rmwByte_eq]
  exact (readByte_follows a reg).bind fun b => .of_quiet_rest (hwrite b) fun _ => holdByte_follows _

theorem requireUnbound_follows : Cmd.Follows p [] requireUnbound := by
  refine ⟨fun s hs => ?_⟩
  rcases hl : s.life with _ | _
  · rw [requireUnbound_unbound hl]
    exact (Cmd.Follows.ret ()).ends s hs
  · rw [requireUnbound_ready hl]
    exact (Cmd.Follows.raise (e := .rebind) fun _ => nofun).ends s hs

theorem Cmd.Follows.check (b : Bool) {e : Err} (he : ∀ x, e ≠ .xport x) :
    Cmd.Follows p [] (if b then Cmd.ret () else Cmd.raise e) := by
  cases b
  · exact .raise he
  · exact .ret _

theorem requireCap_follows (b : Bool) : Cmd.Follows p [] (requireCap b) := .check b fun _ => nofun

theorem requireRange_follows (b : Bool) : Cmd.Follows p [] (requireRange b) := .check b fun _ => nofun

theorem requireWritable_follows (e : MapEntry) : Cmd.Follows p [] (requireWritable e) := by
  unfold requireWritable
  split
  · exact .ret _
  · exact .raise fun _ => nofun

theorem requireFreq_follows (T : FreqTable) (hz : INT32) : Cmd.Follows p [] (requireFreq T hz) := by
  unfold requireFreq
  split
  · exact .ret _
  · exact .raise fun _ => nofun

theorem decodeFreq_follows (T : FreqTable) (x : Byte) : Cmd.Follows p [] (decodeFreq T x) := by
  unfold decodeFreq
  split
  · exact .ret _
  · exact .raise fun _ => nofun

theorem decodeDateTime_follows (b0 b1 b2 b3 b4 b5 b6 : Byte) :
    Cmd.Follows p [] (decodeDateTime b0 b1 b2 b3 b4 b5 b6) :=
  .readParams_bind (.of_quiet_first (drawIndex_follows _) fun _ => .ret _)

theorem decodeAlarm_follows (b0 b1 b2 b3 : Byte) : Cmd.Follows p [] (decodeAlarm b0 b1 b2 b3) :=
  .readParams_bind (.of_quiet_first (drawIndex_follows _) fun _ => .ret _)

/-- R121: what follows gets seven bytes. -/
theorem Cmd.Follows.encodeDateTime_bind {β : Type} {k : List Byte → Cmd β} (dt : DateTime)
    (hk : ∀ bs, bs.length = 7 → Cmd.Follows p plan (k bs)) : Cmd.Follows p plan ((encodeDateTime dt).bind k) :=
  ⟨(Cmd.Follows.of_quiet_first (drawIndex_follows dateTimeEncodeDraws) fun n =>
    hk (dateTimeEncode n dt) (dateTimeEncode_length n dt)).ends⟩

/-- R123: what follows gets four bytes. -/
theorem Cmd.Follows.encodeAlarm_bind {β : Type} {k : List Byte → Cmd β} (al : AlarmFields)
    (hk : ∀ bs, bs.length = 4 → Cmd.Follows p plan (k bs)) : Cmd.Follows p plan ((encodeAlarm al).bind k) :=
  ⟨(Cmd.Follows.of_quiet_first (drawIndex_follows alarmDraws) fun n =>
    hk (alarmEncode n al) (alarmEncode_length n al)).ends⟩

/-- R167: what follows gets the accessor's entry. -/
theorem Cmd.Follows.resolve_bind {β : Type} {k : MapEntry → Cmd β} {v : Variant} {acc : Accessor}
    (hk : ∀ e, dispatch p v acc = some e → Cmd.Follows p plan (k e)) :
    Cmd.Follows p plan ((resolve v acc).bind k) := by
  refine ⟨fun s hs => ?_⟩
  subst hs
  rcases resolve_cases v acc s with ⟨e, hs, he⟩ | ⟨hs, -⟩
  · rw [Cmd.bind_done hs]
    exact (hk e he).ends s rfl
  · rw [Cmd.bind_raised hs]
    exact (Cmd.Follows.raise (e := .cap) fun _ => nofun).ends s rfl

/-- R200: the initialisation of a variant is the whole plan of `BIND`. -/
theorem constructionInit_follows (o : Option Variant) (v : Variant) (a : DevAddr) :
    Cmd.Follows p (busPlan p o (.bind v a)) (constructionInit v a) := by
  cases v
  case ds1307 => exact .ret _
  case ds3231 => exact .ret _
  case pcf8523 => exact rmwByte_follows a control3 _

end Pieces

/-! ### Every instruction follows its row -/

/-- R61: the instruction `i` runs a command that follows its row. -/
def ExecFollowsPlan (i : Instr) : Prop :=
  ∀ s : State, ∃ c, exec i s = Cmd.run c s ∧ EndsByPlan s (busPlan s.params s.chip i) (c s)

/-- R83: the row of a pure command is empty. -/
theorem busPlan_of_pure {i : Instr} (p : Params) (o : Option Variant) (h : isBusCommand i = false) :
    busPlan p o i = [] := by
  cases i <;> cases h <;> cases o <;> rfl

theorem ExecFollowsPlan.pure {i : Instr} (c : Cmd Value) (hi : isBusCommand i = false)
    (he : ∀ s, exec i s = Cmd.run c s) (hc : ∀ p, Cmd.Follows p [] c) : ExecFollowsPlan i :=
  fun s => ⟨c, he s, by rw [busPlan_of_pure _ _ hi]; exact (hc s.params).ends s rfl⟩

/-- R261 check 3: on a block that is not bound the command issues nothing; on a bound one its row is its variant's. -/
theorem ExecFollowsPlan.bound {i : Instr} (k : Binding → Cmd Value)
    (he : ∀ s, exec i s = Cmd.run (requireBinding.bind k) s)
    (hk : ∀ p b, Cmd.Follows p (busPlan p (some b.variant) i) (k b)) : ExecFollowsPlan i := by
  intro s
  refine ⟨_, he s, ?_⟩
  rcases hb : s.binding with _ | b
  · rw [Cmd.bind_raised (requireBinding_unbound hb)]
    exact (Cmd.Follows.raise (e := .unbound) fun _ => nofun).ends s rfl
  · obtain ⟨-, hchip, -⟩ := State.ready_of_binding hb
    rw [Cmd.bind_done (requireBinding_bound hb), hchip]
    exact (hk s.params b).ends s rfl

/-- R203, R204: the pre-step of `DT.WRITE` and its write of seven registers are its row. -/
theorem dateTimeWrite_follows (p : Params) (b : Binding) (dt : DateTime) {bs : List Byte} (hlen : bs.length = 7) :
    Cmd.Follows p (busPlan p (some b.variant) (.dtWrite dt))
      ((dateTimePreStep b).bind fun _ => (memWrite b.addr (dateTimeBase b.variant) bs).bind fun _ =>
        Cmd.ret Value.none) := by
  have hwrite : Cmd.Follows p [.write (dateTimeBase b.variant) 7]
      ((memWrite b.addr (dateTimeBase b.variant) bs).bind fun _ => Cmd.ret Value.none) :=
    .of_quiet_rest (hlen ▸ memWrite_follows b.addr (dateTimeBase b.variant) bs) fun _ => .ret _
  obtain ⟨v, a⟩ := b
  cases v
  case ds1307 => exact .of_quiet_first (.ret _) fun _ => hwrite
  case ds3231 => exact (rmwByte_follows a ds3231Status _).bind fun _ => hwrite
  case pcf8523 => exact (rmwByte_follows a control3 _).bind fun _ => hwrite

/-- R212: the table's write mode gives the row of `FREQ.SET`. -/
theorem writeFreq_follows (p : Params) (b : Binding) (hz : INT32) (pat : Byte) :
    Cmd.Follows p (busPlan p (some b.variant) (.freqSet hz)) (writeFreq b (freqTable p b.variant) pat) := by
  obtain ⟨v, a⟩ := b
  cases v
  case ds1307 => exact memWrite_follows a 0x07 [pat]
  case ds3231 => exact rmwByte_follows a 0x0E _
  case pcf8523 => exact rmwByte_follows a 0x0F _

/-- R211: the row of `FREQ.GET` reads the square-wave register. -/
theorem busPlan_freqGet (p : Params) (v : Variant) :
    busPlan p (some v) .freqGet = [.read (squareWaveReg v) 1] := by
  cases v <;> rfl

/-- R161, R202: the row of `DT.READ` reads seven registers from the date/time base. -/
theorem busPlan_dtRead (p : Params) (v : Variant) : busPlan p (some v) .dtRead = [.read (dateTimeBase v) 7] := by
  cases v <;> rfl

theorem busPlan_flagGet {p : Params} {v : Variant} {acc : Accessor} {e : MapEntry} (h : dispatch p v acc = some e) :
    busPlan p (some v) (.flagGet acc) = [.read e.reg 1] := by
  simp [busPlan, h]

theorem busPlan_flagSet {p : Params} {v : Variant} {acc : Accessor} {e : MapEntry} (x : Bool)
    (h : dispatch p v acc = some e) : busPlan p (some v) (.flagSet acc x) = rmwPlan e.reg := by
  simp [busPlan, h]

/-- R216: an empty `MEM.WRITE` has an empty row. -/
theorem memWriteBytes_follows (p : Params) (b : Binding) (a : Byte) (bs : List Byte) :
    Cmd.Follows p (busPlan p (some b.variant) (.memWrite a bs))
      (if bs.isEmpty then Cmd.ret () else memWrite b.addr (nvramBase + a) bs) := by
  cases bs with
  | nil => exact .ret _
  | cons x xs => exact memWrite_follows b.addr (nvramBase + a) (x :: xs)

/-- R61: every instruction follows its row. -/
theorem execFollowsPlan (i : Instr) : ExecFollowsPlan i := by
  cases i with
  | bcdDec b =>
    exact .pure _ rfl (fun s => Eq.refl (execBcdDec b s)) fun _ =>
      .readParams_bind (.of_quiet_first (drawIndex_follows _) fun _ => .ret _)
  | bcdEnc v =>
    exact .pure _ rfl (fun s => Eq.refl (execBcdEnc v s)) fun _ =>
      .of_quiet_first (drawIndex_follows _) fun _ => .ret _
  | flagTest b m => exact .pure _ rfl (fun _ => rfl) fun _ => .ret _
  | flagMerge b m v => exact .pure _ rfl (fun _ => rfl) fun _ => .ret _
  | dtDec bs =>
    refine .pure _ rfl (fun _ => rfl) fun _ => ?_
    split
    · exact .of_quiet_first (decodeDateTime_follows ..) fun _ => .ret _
    · exact .raise fun _ => nofun
  | dtEnc dt => exact .pure _ rfl (fun _ => rfl) fun _ => .encodeDateTime_bind dt fun _ _ => .ret _
  | almDec chip bs =>
    refine .pure _ rfl (fun _ => rfl) fun _ => ?_
    split
    · exact .of_quiet_first (requireCap_follows _) fun _ =>
        .of_quiet_first (decodeAlarm_follows ..) fun _ => .ret _
    · exact .raise fun _ => nofun
  | almEnc chip al =>
    exact .pure _ rfl (fun _ => rfl) fun _ =>
      .of_quiet_first (requireCap_follows _) fun _ => .encodeAlarm_bind al fun _ _ => .ret _
  | freqDec chip r =>
    exact .pure _ rfl (fun _ => rfl) fun _ =>
      .readParams_bind (.of_quiet_first (decodeFreq_follows ..) fun _ => .ret _)
  | freqEnc chip r hz =>
    exact .pure _ rfl (fun _ => rfl) fun _ =>
      .readParams_bind (.of_quiet_first (requireFreq_follows ..) fun _ => .ret _)
  | map chip acc => exact .pure _ rfl (fun _ => rfl) fun _ => .resolve_bind fun _ _ => .ret _
  | bind chip a =>
    exact fun s => ⟨_, rfl, (Cmd.Follows.of_quiet_first requireUnbound_follows fun _ =>
      .of_quiet_rest (constructionInit_follows s.chip chip a) fun _ =>
        .of_quiet_first (commitBinding_follows chip a) fun _ => .ret _).ends s rfl⟩
  | dtRead =>
    refine .bound _ (fun _ => rfl) fun p b => ?_
    rw [busPlan_dtRead]
    exact .of_quiet_rest (memRead_follows ..) fun _ => .of_quiet_first (decodeDateTime_follows ..) fun _ => .ret _
  | dtWrite dt =>
    exact .bound _ (fun _ => rfl) fun p b =>
      .encodeDateTime_bind dt fun _ hlen => dateTimeWrite_follows p b dt hlen
  | flagGet acc =>
    refine .bound _ (fun _ => rfl) fun p b => .resolve_bind fun e he => ?_
    rw [busPlan_flagGet he]
    exact .of_quiet_rest (readByte_follows ..) fun _ => .ret _
  | flagSet acc v =>
    refine .bound _ (fun _ => rfl) fun p b => .resolve_bind fun e he => ?_
    rw [busPlan_flagSet v he]
    exact .of_quiet_first (requireWritable_follows e) fun _ => .of_quiet_rest (rmwByte_follows ..) fun _ => .ret _
  | freqGet =>
    refine .bound _ (fun _ => rfl) fun p b => .readParams_bind ?_
    rw [busPlan_freqGet]
    exact .of_quiet_rest (readByte_follows ..) fun _ => .of_quiet_first (decodeFreq_follows ..) fun _ => .ret _
  | freqSet hz =>
    exact .bound _ (fun _ => rfl) fun p b => .readParams_bind (.of_quiet_first (requireFreq_follows ..) fun pat =>
      .of_quiet_rest (writeFreq_follows p b hz pat) fun _ => .ret _)
  | memRead a =>
    exact .bound _ (fun _ => rfl) fun _ b => .of_quiet_first (requireCap_follows _) fun _ =>
      .of_quiet_first (requireRange_follows _) fun _ =>
        .of_quiet_rest (readByte_follows b.addr (nvramBase + a)) fun _ => .ret _
  | memWrite a bs =>
    exact .bound _ (fun _ => rfl) fun p b => .of_quiet_first (requireCap_follows _) fun _ =>
      .of_quiet_first (requireRange_follows _) fun _ =>
        .of_quiet_rest (memWriteBytes_follows p b a bs) fun _ => .ret _
  | almRead =>
    exact .bound _ (fun _ => rfl) fun _ b => .of_quiet_first (requireCap_follows _) fun _ =>
      .of_quiet_rest (memRead_follows b.addr alarmBase 4) fun _ =>
        .of_quiet_first (decodeAlarm_follows ..) fun _ => .ret _
  | almWrite al =>
    refine .bound _ (fun _ => rfl) fun p b => .of_quiet_first (requireCap_follows _) fun _ =>
      .encodeAlarm_bind al fun bs hlen => .of_quiet_rest ?_ fun _ => .ret _
    have hwrite := memWrite_follows (p := p) b.addr alarmBase bs
    rwa [hlen] at hwrite
  | reset =>
    exact .bound _ (fun _ => rfl) fun _ b => .of_quiet_first (requireCap_follows _) fun _ =>
      (memWrite_follows b.addr control1 [softwareResetPattern]).bind fun _ =>
        .of_quiet_rest (rmwByte_follows b.addr control3 _) fun _ => .ret _
  | rflagGet r m => exact .bound _ (fun _ => rfl) fun _ b => .of_quiet_rest (readByte_follows b.addr r) fun _ => .ret _
  | rflagSet r m v =>
    exact .bound _ (fun _ => rfl) fun _ b => .of_quiet_rest (rmwByte_follows b.addr r _) fun _ => .ret _

/-- R61: a command that answers ended with a result or with an error, by its row. -/
theorem exec_next_by_plan {i : Instr} {s t : State} (h : exec i s = .next t) :
    (∃ v u, EndsByPlan s (busPlan s.params s.chip i) (.done (α := Value) v u) ∧ t = u.respond (.ok v)) ∨
    (∃ e u, EndsByPlan s (busPlan s.params s.chip i) (.raised (α := Value) e u) ∧ t = u.respond (.error e)) := by
  obtain ⟨c, he, hc⟩ := execFollowsPlan i s
  rcases Cmd.run_next (he ▸ h) with ⟨v, u, hout, rfl⟩ | ⟨e, u, hout, rfl⟩
  · exact .inl ⟨v, u, hout ▸ hc, rfl⟩
  · exact .inr ⟨e, u, hout ▸ hc, rfl⟩

/-- What a command has issued when it answers is the beginning of its row, and after `OK` all of it. -/
theorem exec_next_issues {i : Instr} {s t : State} (h : exec i s = .next t) :
    ∃ trs u r, t = u.respond r ∧ Issues s trs u ∧ trs.map Transaction.planned <+: busPlan s.params s.chip i ∧
      ∀ v, r = .ok v → trs.map Transaction.planned = busPlan s.params s.chip i := by
  rcases exec_next_by_plan h with ⟨v, u, hu, rfl⟩ | ⟨e, u, hu, rfl⟩
  · cases hu with
    | done _ hi _ hplan => exact ⟨_, u, _, rfl, hi, hplan ▸ List.prefix_rfl, fun _ _ => hplan⟩
  · cases hu with
    | raised hi _ hplan _ => exact ⟨_, u, _, rfl, hi, hplan, fun _ => nofun⟩
    | failed hi _ _ hplan => exact ⟨_, u, _, rfl, hi, hplan, fun _ => nofun⟩

/-! ### The statements -/

/-- Settles O53: a command gives one response, and what it has issued by then is known from that response. -/
theorem transactionsFollowTheirPlan : Obligations.TransactionsFollowTheirPlan := by
  intro i s t h
  obtain ⟨trs, u, r, rfl, hi, hprefix, hall⟩ := exec_next_issues h
  refine ⟨trs, hi.trace, hprefix, fun v hv => hall v ?_⟩
  simpa [hi.responses] using hv

/-- Settles O55: the outcome with a failed transaction is the one with `E_XPORT`. -/
theorem transportFailureEndsTheCommand : Obligations.TransportFailureEndsTheCommand := by
  intro i s t h
  rcases exec_next_by_plan h with ⟨v, u, hu, rfl⟩ | ⟨e, u, hu, rfl⟩
  · cases hu with
    | done _ hi hok _ =>
      exact ⟨_, .ok v, hi.trace, by simp [hi.responses], fun _ => nofun, fun _ => hok⟩
  · cases hu with
    | raised hi hok _ he =>
      refine ⟨_, .error e, hi.trace, by simp [hi.responses], fun x hx => ?_, fun _ => hok⟩
      exact absurd (Response.error.inj hx) (he x)
    | @failed e _ before last hi hok hlast _ =>
      refine ⟨before ++ [last], .error (.xport e), hi.trace, by simp [hi.responses], fun x hx => ?_,
        fun hx => absurd rfl (hx e)⟩
      cases hx
      exact ⟨_, _, rfl, hlast, hok⟩

/-- Settles O57: a register outside the writes of the row is outside the writes of every transaction issued. -/
theorem commandsStoreOnlyToTheirRegisters : Obligations.CommandsStoreOnlyToTheirRegisters := by
  intro i s t hs h q hq
  obtain ⟨trs, u, r, rfl, hi, hprefix, -⟩ := exec_next_issues h
  exact hi.dev hs q fun x hx => hq x.planned (hprefix.subset (List.mem_map_of_mem hx))

end Sys2Proof.Machine
end

section
/-! PROOFS. The lost update of a read-modify-write (20_memory.md R62, 70_reset_and_hazards.md R296): the primitive
loses the environment's write (`rmwByte_interrupted`), and so does each command built on it. -/

namespace Sys2Proof.Machine

/-- The schedule of R296: nothing happens before the read of a read-modify-write, the environment writes `z` to the
register `r`, which holds `x`, before its write, and `rest` comes after. -/
structure State.Interrupted (s : State) (r : RegNum) (x z : Byte) (rest : List BusEvent) : Prop where
  dev : s.dev.read r.toNat = some x
  bus : s.bus = quietEvent :: ⟨[(r, z)], .ok⟩ :: rest

/-- What a lost update leaves: the byte `y` in the register `r`, no response yet, and the schedule `rest`. -/
structure LeavesRegister (s : State) (r : RegNum) (y : Byte) (rest : List BusEvent) (t : State) : Prop where
  dev : t.dev.read r.toNat = some y
  responses : t.responses = s.responses
  bus : t.bus = rest

theorem State.nextEvent_of_bus {s : State} {e : BusEvent} {rest : List BusEvent} (h : s.bus = e :: rest) :
    s.nextEvent = e := by
  simp [State.nextEvent, h]

theorem readParams_done (s : State) : readParams s = .done s.params s := rfl

theorem encodeDateTime_done (dt : DateTime) (s : State) :
    encodeDateTime dt s = .done (dateTimeEncode s.draws dt) (s.reserve dateTimeEncodeDraws) := rfl

/-- R62: the read-modify-write completes and writes the byte it computed from its own read. -/
theorem rmwByte_interrupted {s : State} {r : RegNum} {x z : Byte} {rest : List BusEvent} (a : DevAddr)
    (f : Byte → Byte) (h : s.Interrupted r x z rest) :
    ∃ t, rmwByte a r f s = .done () t ∧ LeavesRegister s r (f x) rest t := by
  have hread : s.nextEvent = quietEvent := State.nextEvent_of_bus h.bus
  have hwrite : s.takeEvent.nextEvent = ⟨[(r, z)], .ok⟩ :=
    State.nextEvent_of_bus (rest := rest) (by simp [h.bus])
  have hbyte : s.answerByte r = x := State.answerByte_of_unchanged (by rw [hread]; rfl) h.dev
  refine ⟨_, rmwByte_ok (by rw [hread]; rfl) (by rw [hwrite]), ?_, rfl, by simp [h.bus]⟩
  simp [hbyte]

/-- A command whose pieces end in a state that holds `y` in `r` ends with that register. -/
theorem endsWithRegister_of_done {i : Instr} {c : Cmd Value} {s t : State} {r : RegNum} {y : Byte}
    {rest : List BusEvent} (he : exec i s = Cmd.run c s) (hc : c s = .done .none t)
    (ht : LeavesRegister s r y rest t) : EndsWithRegister i s r y :=
  ⟨_, he.trans (Cmd.run_done hc), ht.dev, by simp [ht.responses]⟩

/-- The same for a command of a bound block, after its check of the binding. -/
theorem endsWithRegister_of_bound {i : Instr} {k : Binding → Cmd Value} {s t : State} {b : Binding} {r : RegNum}
    {y : Byte} {rest : List BusEvent} (hb : s.binding = some b)
    (he : exec i s = Cmd.run (requireBinding.bind k) s) (hk : k b s = .done .none t)
    (ht : LeavesRegister s r y rest t) : EndsWithRegister i s r y :=
  endsWithRegister_of_done (he.trans (run_requireBinding_bound hb)) hk ht

section Interrupted

variable {s : State} {b : Binding} {r : RegNum} {x z : Byte} {rest : List BusEvent}

theorem rflagSet_interrupted (hb : s.binding = some b) (h : s.Interrupted r x z rest) (m : Byte) (v : Bool) :
    EndsWithRegister (.rflagSet r m v) s r (flagMerge x m v) := by
  obtain ⟨t, hrmw, ht⟩ := rmwByte_interrupted b.addr (fun x => flagMerge x m v) h
  exact endsWithRegister_of_bound hb rfl (Cmd.bind_done hrmw) ht

theorem flagSet_interrupted {acc : Accessor} {e : MapEntry} (hb : s.binding = some b)
    (h : s.Interrupted e.reg x z rest) (v : Bool) (he : dispatch s.params b.variant acc = some e)
    (hrw : e.access = .rw) : EndsWithRegister (.flagSet acc v) s e.reg (flagMerge x e.mask v) := by
  obtain ⟨t, hrmw, ht⟩ := rmwByte_interrupted b.addr (fun x => flagMerge x e.mask v) h
  have hwritable : requireWritable e s = .done () s := by rw [requireWritable, hrw]; rfl
  refine endsWithRegister_of_bound hb rfl ?_ ht
  rw [Cmd.bind_done (resolve_some he), Cmd.bind_done hwritable, Cmd.bind_done hrmw]
  rfl

/-- R174, R212: `FREQ.SET` keeps what was read outside the table's mask. -/
theorem freqSet_interrupted {row : FreqRow} (hb : s.binding = some b)
    (h : s.Interrupted (squareWaveReg b.variant) x z rest) (hrow : row ∈ (freqTable s.params b.variant).rows)
    (hwf : freqTableWf (freqTable s.params b.variant) = true) (hmode : (freqTable s.params b.variant).mode = .rmw) :
    EndsWithRegister (.freqSet row.key) s (squareWaveReg b.variant)
      ((x &&& ~~~(freqTable s.params b.variant).mask) ||| row.pattern) := by
  set T := freqTable s.params b.variant
  obtain ⟨t, hrmw, ht⟩ := rmwByte_interrupted b.addr (fun x => freqPlace T x row.pattern) h
  have hplace : freqPlace T x row.pattern = (x &&& ~~~T.mask) ||| row.pattern := by rw [freqPlace, hmode]
  have hpattern : requireFreq T row.key s = .done row.pattern s := by
    rw [requireFreq, freqPattern_of_mem hwf hrow]
    rfl
  have hwrite : writeFreq b T row.pattern s = .done () t := by rw [writeFreq, hmode]; exact hrmw
  refine endsWithRegister_of_bound hb rfl ?_ (hplace ▸ ht)
  rw [Cmd.bind_done (readParams_done s), Cmd.bind_done hpattern, Cmd.bind_done hwrite]
  rfl

/-- R204: the seven registers of `DT.WRITE` do not hold `r`, and nothing disturbs their write. -/
theorem dtWrite_interrupted {later : List BusEvent} {f : Byte → Byte} (hb : s.binding = some b)
    (h : s.Interrupted r x z (quietEvent :: later)) (dt : DateTime) (hpre : dateTimePreStep b = rmwByte b.addr r f)
    (hout : r.toNat < (dateTimeBase b.variant).toNat ∨ (dateTimeBase b.variant).toNat + 7 ≤ r.toNat) :
    EndsWithRegister (.dtWrite dt) s r (f x) := by
  have hres : (s.reserve dateTimeEncodeDraws).Interrupted r x z (quietEvent :: later) := ⟨h.dev, h.bus⟩
  obtain ⟨t, hrmw, ht⟩ := rmwByte_interrupted b.addr f hres
  have hquiet : t.nextEvent = quietEvent := State.nextEvent_of_bus ht.bus
  have hlen : (dateTimeEncode s.draws dt).length = 7 := dateTimeEncode_length s.draws dt
  have hwrite : memWrite b.addr (dateTimeBase b.variant) (dateTimeEncode s.draws dt) t = .done () _ :=
    memWrite_ok (by omega) (by cases b.variant <;> simp [hlen, dateTimeBase]) (by rw [hquiet]; rfl)
  have hleaves : LeavesRegister s r (f x) later
      (t.afterWrite b.addr (dateTimeBase b.variant) (dateTimeEncode s.draws dt)) := by
    refine ⟨?_, ht.responses, by simp [ht.bus]⟩
    rw [State.afterWrite_dev, Memory.read_writeBytes_other _ _ _ _ (by rwa [hlen]), State.takeEvent_dev, hquiet]
    exact ht.dev
  refine endsWithRegister_of_bound hb rfl ?_ hleaves
  rw [Cmd.bind_done (encodeDateTime_done dt s), hpre,
    Cmd.bind_done hrmw, Cmd.bind_done hwrite]
  rfl

/-- R201: clearing control3 bits 7 to 5 keeps the bits of 0x1F. -/
theorem initControl3_interrupted (a : DevAddr) (h : s.Interrupted control3 x z rest) :
    ∃ t, initControl3 a s = .done () t ∧ LeavesRegister s control3 (x &&& 0x1F) rest t :=
  rmwByte_interrupted a _ h

theorem bind_interrupted (a : DevAddr) (hl : s.life = .unbound) (h : s.Interrupted control3 x z rest) :
    EndsWithRegister (.bind .pcf8523 a) s control3 (x &&& 0x1F) := by
  obtain ⟨t, hinit, ht⟩ := initControl3_interrupted a h
  have hcommit : LeavesRegister s control3 (x &&& 0x1F) rest (t.commit .pcf8523 a) := ⟨ht.dev, ht.responses, ht.bus⟩
  refine endsWithRegister_of_done rfl ?_ hcommit
  rw [Cmd.bind_done (requireUnbound_unbound hl), constructionInit, Cmd.bind_done hinit]
  rfl

/-- R222: the software-reset pattern goes to control1, which is not the register of the initialisation. -/
theorem reset_interrupted (hb : s.binding = some b) (hv : b.variant = .pcf8523)
    (hdev : s.dev.read control3.toNat = some x)
    (hbus : s.bus = quietEvent :: quietEvent :: ⟨[(control3, z)], .ok⟩ :: rest) :
    EndsWithRegister .reset s control3 (x &&& 0x1F) := by
  have hquiet : s.nextEvent = quietEvent := State.nextEvent_of_bus hbus
  have hwrite : memWrite b.addr control1 [softwareResetPattern] s = .done () _ :=
    memWrite_ok (by decide) (by decide) (by rw [hquiet]; rfl)
  have hafter : (s.afterWrite b.addr control1 [softwareResetPattern]).Interrupted control3 x z rest := by
    refine ⟨?_, by simp [hbus]⟩
    rw [State.afterWrite_dev, Memory.read_writeBytes_other _ _ _ _ (by decide), State.takeEvent_dev, hquiet]
    exact hdev
  obtain ⟨t, hinit, ht⟩ := initControl3_interrupted b.addr hafter
  have hleaves : LeavesRegister s control3 (x &&& 0x1F) rest t := ⟨ht.dev, ht.responses, ht.bus⟩
  refine endsWithRegister_of_bound hb rfl ?_ hleaves
  rw [hv, Cmd.bind_done (show requireCap (hasSoftwareReset .pcf8523) s = .done () s from rfl), Cmd.bind_done hwrite,
    Cmd.bind_done hinit]
  rfl

end Interrupted

/-- Settles O23: each command's own lemma, at the registers and masks of the clause. -/
theorem environmentWriteInsideReadModifyWriteIsLost :
    Obligations.EnvironmentWriteInsideReadModifyWriteIsLost := by
  refine ⟨fun s chip a r x z rest hl hc ha hdev hbus => ?_, fun s a x z rest hl hdev hbus => ?_,
    fun s a x z rest hl hc ha hdev hbus => ?_⟩
  · have hb : s.binding = some ⟨chip, a⟩ := State.binding_of_ready hl hc ha
    have h : s.Interrupted r x z rest := ⟨hdev, hbus⟩
    refine ⟨rflagSet_interrupted hb h, fun acc e v he hrw hr => ?_, fun row hrow hwf hchip => ?_,
      fun dt keep later hrest hchip => ?_⟩
    · subst hr
      exact flagSet_interrupted hb h v he hrw
    · simp only [List.mem_cons, Prod.mk.injEq, List.not_mem_nil, or_false] at hchip
      rcases hchip with ⟨rfl, rfl⟩ | ⟨rfl, rfl⟩
      · exact freqSet_interrupted hb h hrow hwf rfl
      · exact freqSet_interrupted hb h hrow hwf rfl
    · subst hrest
      simp only [List.mem_cons, Prod.mk.injEq, List.not_mem_nil, or_false] at hchip
      rcases hchip with ⟨rfl, rfl, rfl⟩ | ⟨rfl, rfl, rfl⟩
      · exact dtWrite_interrupted hb h dt rfl (.inr (by simp [dateTimeBase]))
      · exact dtWrite_interrupted hb h dt rfl (.inl (by simp [dateTimeBase]))
  · exact bind_interrupted a hl ⟨hdev, hbus⟩
  · exact reset_interrupted (State.binding_of_ready hl hc ha) rfl hdev hbus

end Sys2Proof.Machine
end

section
/-! PROOFS. Decoding and encoding (30_encoding.md rules R81 to R90). What a row's operand reader accepts is said once
per reader (`…_eq_ok`). A word that a row admits is fixed by the fields the row uses, since the others are zero
(`Opcode.Admits.eq_of_agreeOn`), and the row reads exactly those back (`Opcode.reads_of_operands`); so a command decodes
to an instruction exactly when it is the encoding of it (`decode_eq_ok_iff_encode`). -/

namespace Sys2Proof

/-! ### Codes -/

theorem Opcode.eq_of_code_eq {op op' : Opcode} (h : op.code = op'.code) : op = op' := by
  simpa using congrArg Opcode.ofCode h

theorem Variant.ofCode_eq_some_iff {c : BitVec 2} {v : Variant} : Variant.ofCode c = some v ↔ v.code = c :=
  ⟨Variant.code_of_ofCode, fun h => h ▸ Variant.ofCode_code v⟩

theorem Accessor.ofCode_eq_some_iff {c : BitVec 3} {a : Accessor} : Accessor.ofCode c = some a ↔ a.code = c :=
  ⟨Accessor.code_of_ofCode, fun h => h ▸ Accessor.ofCode_code a⟩

/-- R22: only CHIP `00` names no variant. -/
theorem Variant.exists_code_eq_iff (c : BitVec 2) : (∃ v : Variant, v.code = c) ↔ c ≠ 0 := by
  constructor
  · rintro ⟨v, rfl⟩
    cases v <;> decide
  · have hnamed : ∀ c : BitVec 2, c ≠ 0 → (Variant.ofCode c).isSome = true := by decide
    intro hc
    obtain ⟨v, hv⟩ := Option.isSome_iff_exists.1 (hnamed c hc)
    exact ⟨v, Variant.code_of_ofCode hv⟩

/-- R84: the ACC values from 5 name no accessor. -/
theorem Accessor.exists_code_eq_iff (c : BitVec 3) : (∃ a : Accessor, a.code = c) ↔ c.toNat < 5 := by
  constructor
  · rintro ⟨a, rfl⟩
    cases a <;> decide
  · have hnamed : ∀ c : BitVec 3, c.toNat < 5 → (Accessor.ofCode c).isSome = true := by decide
    intro hc
    obtain ⟨a, ha⟩ := Option.isSome_iff_exists.1 (hnamed c hc)
    exact ⟨a, Accessor.code_of_ofCode ha⟩

/-! ### The operand readers -/

section Readers

variable {f : Fields} {p : Value} {i : Instr}

@[simp] theorem Fields.withChip_eq_ok {k : Variant → Except DecodeError Instr} :
    f.withChip k = .ok i ↔ ∃ v : Variant, v.code = f.chip ∧ k v = .ok i := by
  simp only [← Variant.ofCode_eq_some_iff, Fields.withChip]
  cases Variant.ofCode f.chip <;> simp

@[simp] theorem Fields.withAcc_eq_ok {k : Accessor → Except DecodeError Instr} :
    f.withAcc k = .ok i ↔ ∃ a : Accessor, a.code = f.acc ∧ k a = .ok i := by
  simp only [← Accessor.ofCode_eq_some_iff, Fields.withAcc]
  cases Accessor.ofCode f.acc <;> simp

@[simp] theorem Value.asNone_eq_ok {k : Except DecodeError Instr} : p.asNone k = .ok i ↔ p = .none ∧ k = .ok i := by
  cases p <;> simp [Value.asNone]

@[simp] theorem Value.asInt32_eq_ok {k : INT32 → Except DecodeError Instr} :
    p.asInt32 k = .ok i ↔ ∃ v, p = .int32 v ∧ k v = .ok i := by
  cases p <;> simp [Value.asInt32]

@[simp] theorem Value.asBytes_eq_ok {k : List Byte → Except DecodeError Instr} :
    p.asBytes k = .ok i ↔ ∃ bs, p = .bytes bs ∧ k bs = .ok i := by
  cases p <;> simp [Value.asBytes]

@[simp] theorem Value.asBytesOf_eq_ok {n : Nat} {k : List Byte → Except DecodeError Instr} :
    p.asBytesOf n k = .ok i ↔ ∃ bs, p = .bytes bs ∧ bs.length = n ∧ k bs = .ok i := by
  simp only [Value.asBytesOf, Value.asBytes_eq_ok]
  refine exists_congr fun bs => and_congr_right fun _ => ?_
  split <;> simp [*]

@[simp] theorem Value.asDateTime_eq_ok {k : DateTime → Except DecodeError Instr} :
    p.asDateTime k = .ok i ↔ ∃ dt, p = .dateTime dt ∧ k dt = .ok i := by
  cases p <;> simp [Value.asDateTime]

@[simp] theorem Value.asAlarm_eq_ok {k : AlarmFields → Except DecodeError Instr} :
    p.asAlarm k = .ok i ↔ ∃ al, p = .alarmFields al ∧ k al = .ok i := by
  cases p <;> simp [Value.asAlarm]

@[simp] theorem Value.asDevAddr_eq_ok {k : DevAddr → Except DecodeError Instr} :
    p.asDevAddr k = .ok i ↔ ∃ a, p = .devAddr a ∧ k a = .ok i := by
  cases p <;> simp [Value.asDevAddr]

end Readers

/-! ### The words a row admits -/

/-- R82 cases 1 to 3: the word's OPC is the row's, RSV is zero and so is every field the row does not use. -/
structure Opcode.Admits (op : Opcode) (f : Fields) : Prop where
  opc : op.code = f.opc
  rsv : f.rsv = 0
  unused : op.shape.unusedZero f = true

/-- Two words agree on the operand fields that a row of this shape uses. -/
structure Shape.AgreeOn (sh : Shape) (f g : Fields) : Prop where
  chip : sh.chip = true → f.chip = g.chip
  acc : sh.acc = true → f.acc = g.acc
  val : sh.val = true → f.val = g.val
  imm8 : sh.imm8 = true → f.imm8 = g.imm8
  mask8 : sh.mask8 = true → f.mask8 = g.mask8

theorem Shape.unusedZero_iff (sh : Shape) (f : Fields) :
    sh.unusedZero f = true ↔ (sh.chip = false → f.chip = 0) ∧ (sh.acc = false → f.acc = 0) ∧
      (sh.val = false → f.val = 0) ∧ (sh.imm8 = false → f.imm8 = 0) ∧ (sh.mask8 = false → f.mask8 = 0) := by
  have himp : ∀ (b : Bool) (q : Prop), b = true ∨ q ↔ (b = false → q) := by
    intro b q
    cases b <;> simp
  simp only [Shape.unusedZero, Bool.and_eq_true, Bool.or_eq_true, beq_iff_eq, himp, and_assoc]

/-- A field is the same in two words when it is zero in both where unused and agrees where used. -/
theorem field_eq_of_agree {n : Nat} {used : Bool} {x y : BitVec n} (hx : used = false → x = 0)
    (hy : used = false → y = 0) (hxy : used = true → x = y) : x = y := by
  cases used with
  | false => rw [hx rfl, hy rfl]
  | true => exact hxy rfl

/-- R90: a row admits no two words that differ only in what it does not use. -/
theorem Opcode.Admits.eq_of_agreeOn {op : Opcode} {f g : Fields} (hf : op.Admits f) (hg : op.Admits g)
    (h : op.shape.AgreeOn f g) : f = g := by
  obtain ⟨fopc, frsv, funused⟩ := hf
  obtain ⟨gopc, grsv, gunused⟩ := hg
  obtain ⟨fchip, facc, fval, fimm, fmask⟩ := (Shape.unusedZero_iff ..).1 funused
  obtain ⟨gchip, gacc, gval, gimm, gmask⟩ := (Shape.unusedZero_iff ..).1 gunused
  cases f
  cases g
  rw [Fields.mk.injEq]
  exact ⟨fopc.symm.trans gopc, field_eq_of_agree fchip gchip h.chip, field_eq_of_agree facc gacc h.acc,
    field_eq_of_agree fval gval h.val, frsv.trans grsv.symm, field_eq_of_agree fimm gimm h.imm8,
    field_eq_of_agree fmask gmask h.mask8⟩

/-- R88: an instruction's fields are those of a word its row admits. -/
theorem Instr.opcode_admits_fields (i : Instr) : i.opcode.Admits i.fields := by
  cases i <;> exact ⟨rfl, rfl, rfl⟩

theorem Fields.ofWord_encode (i : Instr) : Fields.ofWord (encode i).word = i.fields := Fields.ofWord_toWord _

/-- R82: decoding is finding the row that admits the word and reading its operands. -/
theorem decode_eq_ok_iff {c : Command} {i : Instr} :
    decode c = .ok i ↔
      ∃ op : Opcode, op.Admits (Fields.ofWord c.word) ∧ op.operands (Fields.ofWord c.word) c.payload = .ok i := by
  unfold decode
  generalize Fields.ofWord c.word = f
  constructor
  · intro h
    rcases hop : Opcode.ofCode f.opc with _ | op
    · simp [hop] at h
    · simp only [hop] at h
      split_ifs at h with hr hz
      exact ⟨op, ⟨Opcode.code_of_ofCode hop, not_not.1 hr, hz⟩, h⟩
  · rintro ⟨op, ⟨hc, hr, hz⟩, h⟩
    have hop : Opcode.ofCode f.opc = some op := hc ▸ Opcode.ofCode_code op
    simp only [hop, hr, hz, h, ne_eq, not_true, if_true, if_false]

/-! ### What a row reads -/

/-- R88: `i` is an instruction of the row `op` whose operands are those of the fields the row uses and of the
payload. -/
structure Opcode.Reads (op : Opcode) (f : Fields) (p : Value) (i : Instr) : Prop where
  opcode : i.opcode = op
  payload : i.payload = p
  wf : i.wf = true
  fields : op.shape.AgreeOn i.fields f

/-- A row that reads an instruction gives it every operand of the row: by the form of the operands, payload after
CHIP and ACC. -/
theorem Opcode.reads_of_operands {op : Opcode} {f : Fields} {p : Value} {i : Instr}
    (h : op.operands f p = .ok i) : op.Reads f p i := by
  cases op
  all_goals
    simp only [Opcode.operands, Fields.withChip_eq_ok, Fields.withAcc_eq_ok, Value.asNone_eq_ok,
      Value.asInt32_eq_ok, Value.asBytes_eq_ok, Value.asBytesOf_eq_ok, Value.asDateTime_eq_ok, Value.asAlarm_eq_ok,
      Value.asDevAddr_eq_ok, Except.ok.injEq] at h
  case bcdDec | dtRead | freqGet | memRead | almRead | reset | flagTest | flagMerge | rflagGet | rflagSet =>
    obtain ⟨rfl, rfl⟩ := h
    exact ⟨rfl, rfl, rfl, by constructor <;> simp [Opcode.shape, Instr.fields, flagBit_flag]⟩
  case bcdEnc | dtEnc | dtWrite | freqSet | memWrite | almWrite =>
    obtain ⟨x, rfl, rfl⟩ := h
    exact ⟨rfl, rfl, rfl, by constructor <;> simp [Opcode.shape, Instr.fields]⟩
  case flagGet | flagSet | freqDec =>
    obtain ⟨x, hcode, rfl, rfl⟩ := h
    exact ⟨rfl, rfl, rfl, by constructor <;> simp [Opcode.shape, Instr.fields, flagBit_flag, hcode]⟩
  case almEnc | freqEnc | bind =>
    obtain ⟨v, hchip, x, rfl, rfl⟩ := h
    exact ⟨rfl, rfl, rfl, by constructor <;> simp [Opcode.shape, Instr.fields, hchip]⟩
  case map =>
    obtain ⟨v, hchip, a, hacc, rfl, rfl⟩ := h
    exact ⟨rfl, rfl, rfl, by constructor <;> simp [Opcode.shape, Instr.fields, hchip, hacc]⟩
  case dtDec =>
    obtain ⟨bs, rfl, hlen, rfl⟩ := h
    exact ⟨rfl, rfl, by simp [Instr.wf, hlen], by constructor <;> simp [Opcode.shape]⟩
  case almDec =>
    obtain ⟨v, hchip, bs, rfl, hlen, rfl⟩ := h
    exact ⟨rfl, rfl, by simp [Instr.wf, hlen], by constructor <;> simp [Opcode.shape, Instr.fields, hchip]⟩

/-- R88: the row of a well-formed instruction reads it from its own fields and payload. -/
theorem Instr.operands_fields_payload {i : Instr} (hwf : i.wf = true) :
    i.opcode.operands i.fields i.payload = .ok i := by
  cases i with
  | dtDec bs =>
    have hlen : bs.length = 7 := by simpa [Instr.wf] using hwf
    simp [Instr.opcode, Instr.payload, Opcode.operands, hlen]
  | almDec chip bs =>
    have hlen : bs.length = 4 := by simpa [Instr.wf] using hwf
    simp [Instr.opcode, Instr.fields, Instr.payload, Opcode.operands, hlen]
  | _ => simp [Instr.opcode, Instr.fields, Instr.payload, Opcode.operands, Fields.flag]

/-! ### Both directions of the round trip -/

/-- R88: a well-formed instruction is decoded from its own command. -/
theorem decode_encode {i : Instr} (hwf : i.wf = true) : decode (encode i) = .ok i := by
  refine decode_eq_ok_iff.2 ⟨i.opcode, ?_⟩
  rw [Fields.ofWord_encode]
  exact ⟨i.opcode_admits_fields, Instr.operands_fields_payload hwf⟩

/-- R82, R90: a command that decodes is the encoding of what it decodes to. -/
theorem encode_of_decode {c : Command} {i : Instr} (h : decode c = .ok i) : encode i = c ∧ i.wf = true := by
  obtain ⟨op, hadmits, hoperands⟩ := decode_eq_ok_iff.1 h
  obtain ⟨rfl, hpayload, hwf, hagree⟩ := Opcode.reads_of_operands hoperands
  have hfields : i.fields = Fields.ofWord c.word := i.opcode_admits_fields.eq_of_agreeOn hadmits hagree
  refine ⟨?_, hwf⟩
  rw [encode, hfields, Fields.toWord_ofWord, hpayload]

/-- R81, R82, R90: a command decodes to the well-formed instruction it encodes, and to no other. -/
theorem decode_eq_ok_iff_encode {c : Command} {i : Instr} : decode c = .ok i ↔ encode i = c ∧ i.wf = true :=
  ⟨encode_of_decode, fun ⟨hc, hwf⟩ => hc ▸ decode_encode hwf⟩

end Sys2Proof

namespace Sys2Proof.Machine

/-! ### The six illegal cases -/

/-- A row that uses CHIP has a variant's code there in every instruction. -/
theorem Instr.fields_chip {i : Instr} (h : i.opcode.shape.chip = true) : ∃ v : Variant, v.code = i.fields.chip := by
  cases i
  case almDec chip _ | almEnc chip _ | freqDec chip _ | freqEnc chip _ _ | map chip _ | bind chip _ =>
    exact ⟨chip, rfl⟩
  all_goals cases h

/-- A row that uses ACC has an accessor's id there in every instruction. -/
theorem Instr.fields_acc {i : Instr} (h : i.opcode.shape.acc = true) : ∃ a : Accessor, a.code = i.fields.acc := by
  cases i
  case map _ acc | flagGet acc | flagSet acc _ => exact ⟨acc, rfl⟩
  all_goals cases h

/-- R85, R86: the payload of a well-formed instruction is of its row's type. -/
theorem Instr.payloadFits_payload {i : Instr} (hwf : i.wf = true) : payloadFits i.opcode i.payload = true := by
  cases i with
  | dtDec bs => exact hwf
  | almDec chip bs => exact hwf
  | _ => rfl

/-- A row reads an instruction where CHIP and ACC name something, if it uses them, and the payload is of its type. -/
theorem exists_operands {op : Opcode} {f : Fields} {p : Value}
    (hchip : op.shape.chip = true → ∃ v : Variant, v.code = f.chip)
    (hacc : op.shape.acc = true → ∃ a : Accessor, a.code = f.acc) (hp : payloadFits op p = true) :
    ∃ i, op.operands f p = .ok i := by
  cases op
  case bcdDec | flagTest | flagMerge | dtRead | freqGet | memRead | almRead | reset | rflagGet | rflagSet =>
    cases p with
    | none => exact ⟨_, rfl⟩
    | _ => cases hp
  case bcdEnc | freqSet =>
    cases p with
    | int32 v => exact ⟨_, rfl⟩
    | _ => cases hp
  case dtEnc | dtWrite =>
    cases p with
    | dateTime dt => exact ⟨_, rfl⟩
    | _ => cases hp
  case almWrite =>
    cases p with
    | alarmFields al => exact ⟨_, rfl⟩
    | _ => cases hp
  case memWrite =>
    cases p with
    | bytes bs => exact ⟨_, rfl⟩
    | _ => cases hp
  case dtDec =>
    cases p with
    | bytes bs =>
      have hlen : bs.length = 7 := beq_iff_eq.1 hp
      simp [Opcode.operands, hlen]
    | _ => cases hp
  case almDec =>
    cases p with
    | bytes bs =>
      have hlen : bs.length = 4 := beq_iff_eq.1 hp
      simpa [Opcode.operands, hlen] using hchip rfl
    | _ => cases hp
  case almEnc =>
    cases p with
    | alarmFields al => simpa [Opcode.operands] using hchip rfl
    | _ => cases hp
  case freqDec =>
    cases p with
    | none => simpa [Opcode.operands] using hchip rfl
    | _ => cases hp
  case freqEnc =>
    cases p with
    | int32 hz => simpa [Opcode.operands] using hchip rfl
    | _ => cases hp
  case bind =>
    cases p with
    | devAddr a => simpa [Opcode.operands] using hchip rfl
    | _ => cases hp
  case map =>
    cases p with
    | none =>
      obtain ⟨v, hv⟩ := hchip rfl
      obtain ⟨a, ha⟩ := hacc rfl
      exact ⟨.map v a, by simp [Opcode.operands, hv, ha]⟩
    | _ => cases hp
  case flagGet | flagSet =>
    cases p with
    | none => simpa [Opcode.operands] using hacc rfl
    | _ => cases hp

/-- R82: a command is in none of the six cases exactly when it decodes. -/
theorem not_illegalCommand_iff {c : Command} : ¬illegalCommand c ↔ ∃ i, decode c = .ok i := by
  constructor
  · intro h
    simp only [illegalCommand, not_or, not_exists, not_and, not_forall, not_not] at h
    obtain ⟨⟨op, hc⟩, hr, hrow⟩ := h
    obtain ⟨hunused, hchip, hacc, hpayload⟩ := hrow op hc
    obtain ⟨i, hi⟩ := exists_operands (fun hs => (Variant.exists_code_eq_iff _).2 (hchip hs))
      (fun hs => (Accessor.exists_code_eq_iff _).2 (not_le.1 (hacc hs))) (Bool.eq_true_of_not_eq_false hpayload)
    exact ⟨i, decode_eq_ok_iff.2 ⟨op, ⟨hc, hr, Bool.eq_true_of_not_eq_false hunused⟩, hi⟩⟩
  · rintro ⟨i, hi⟩
    obtain ⟨rfl, hwf⟩ := encode_of_decode hi
    obtain ⟨hc, hr, hunused⟩ := i.opcode_admits_fields
    rw [illegalCommand, Fields.ofWord_encode]
    rintro (hnone | hrsv | ⟨op, hop, hcase⟩)
    · exact hnone i.opcode hc
    · exact hrsv hr
    · obtain rfl : op = i.opcode := Opcode.eq_of_code_eq (hop.trans hc.symm)
      rcases hcase with hused | ⟨hs, hzero⟩ | ⟨hs, hfive⟩ | hpayload
      · exact Bool.false_ne_true (hused.symm.trans hunused)
      · exact (Variant.exists_code_eq_iff _).1 (Instr.fields_chip hs) hzero
      · exact not_le.2 ((Accessor.exists_code_eq_iff _).1 (Instr.fields_acc hs)) hfive
      · exact Bool.false_ne_true (hpayload.symm.trans (Instr.payloadFits_payload hwf))

/-- R89: no opcode has an OPC value of the reserved ranges. -/
theorem illegalCommand_of_reserved {c : Command}
    (h : c.word.toNat % 256 = 0 ∨ (0x0C ≤ c.word.toNat % 256 ∧ c.word.toNat % 256 ≤ 0x0F) ∨
      0x1E ≤ c.word.toNat % 256) : illegalCommand c := by
  have hassigned : ∀ op : Opcode, op.code.toNat ≠ 0 ∧ (op.code.toNat < 0x0C ∨ 0x0F < op.code.toNat) ∧
      op.code.toNat < 0x1E := by
    intro op
    cases op <;> decide
  refine .inl fun op hc => ?_
  have hopc : op.code.toNat = c.word.toNat % 256 := by simp [hc, Fields.ofWord]
  have hop := hassigned op
  omega

/-! ### The statements -/

/-- Settles O1: the row of an instruction admits its fields and reads it from them. -/
theorem decodeOfEncodeIsIdentity : Obligations.DecodeOfEncodeIsIdentity := fun _ => decode_encode

/-- Settles O2: the fields an instruction was read from are its own, those the row does not use being zero in both. -/
theorem decodedCommandIsItsOnlyEncoding : Obligations.DecodedCommandIsItsOnlyEncoding := fun _ _ => encode_of_decode

/-- Settles O3: the six cases are exactly the commands that do not decode. -/
theorem illegalCommandsEndWithEIll : Obligations.IllegalCommandsEndWithEIll := by
  intro s c rest hs
  refine ⟨illegalCommand_of_reserved, fun hill => ?_, fun hlegal => ?_⟩
  · rcases hc : decode c with e | i
    · exact step_of_illegal hs hc
    · exact absurd hill (not_illegalCommand_iff.2 ⟨i, hc⟩)
  · obtain ⟨i, hi⟩ := not_illegalCommand_iff.1 hlegal
    obtain ⟨-, hwf⟩ := encode_of_decode hi
    exact ⟨i, hi, hwf, step_of_legal hs hi⟩

/-- Settles O5: each word and payload is the encoding of the instruction it stands for. -/
theorem specWordsDecode : Obligations.SpecWordsDecode := by
  refine ⟨?_, ?_, ?_, ?_, ?_, ?_, ?_, ?_, ?_⟩ <;> exact decode_eq_ok_iff_encode.2 ⟨rfl, rfl⟩

end Sys2Proof.Machine
end

section
/-! PROOFS. Pure commands. A sequence of primitives that goes to no device reads the parameters and the count of free
values and only adds to that count (`Cmd.MadeOf.readsConfigOnly`). -/

namespace Sys2Proof.Machine

/-- Two outcomes of a piece, the first from `s` and the second from `s'`: both go on with the same value or both end
with the same error, and each state has only had the same number of free values set aside. -/
inductive EndsReserving (s s' : State) {α : Type} : CmdOut α → CmdOut α → Prop
  | done (a : α) (n : Nat) : EndsReserving s s' (.done a (s.reserve n)) (.done a (s'.reserve n))
  | raised (e : Err) (n : Nat) : EndsReserving s s' (.raised e (s.reserve n)) (.raised e (s'.reserve n))

/-- The piece `c` reads nothing but the parameters and the count of free values, and changes only that count. -/
def Cmd.ReadsConfigOnly {α : Type} (c : Cmd α) : Prop :=
  ∀ s s' : State, s'.params = s.params → s'.draws = s.draws → EndsReserving s s' (c s) (c s')

theorem State.reserve_reserve (s : State) (n m : Nat) : (s.reserve n).reserve m = s.reserve (n + m) := by
  simp [State.reserve, Nat.add_assoc]

/-- What comes after a piece that has set `n` free values aside. -/
theorem EndsReserving.after {s s' : State} {n : Nat} {α : Type} {out out' : CmdOut α}
    (h : EndsReserving (s.reserve n) (s'.reserve n) out out') : EndsReserving s s' out out' := by
  cases h with
  | done a m =>
    rw [State.reserve_reserve, State.reserve_reserve]
    exact .done a _
  | raised e m =>
    rw [State.reserve_reserve, State.reserve_reserve]
    exact .raised e _

theorem Cmd.ReadsConfigOnly.bind {α β : Type} {c : Cmd α} {k : α → Cmd β} (hc : Cmd.ReadsConfigOnly c)
    (hk : ∀ a, Cmd.ReadsConfigOnly (k a)) : Cmd.ReadsConfigOnly (c.bind k) := by
  intro s s' hp hd
  have hfirst := hc s s' hp hd
  unfold Cmd.bind
  generalize c s = out, c s' = out' at hfirst
  cases hfirst with
  | done a n => exact .after (hk a (s.reserve n) (s'.reserve n) hp (congrArg (· + n) hd))
  | raised e n => exact .raised e n

theorem drawIndex_readsConfigOnly (k : Nat) : Cmd.ReadsConfigOnly (drawIndex k) := by
  intro s s' _ hd
  unfold drawIndex
  rw [hd]
  exact .done s.draws k

theorem readParams_readsConfigOnly : Cmd.ReadsConfigOnly readParams := by
  intro s s' hp _
  unfold readParams
  rw [hp]
  exact .done s.params 0

/-- R83: a piece without a device to go to touches nothing. -/
theorem Cmd.MadeOf.readsConfigOnly {α : Type} {c : Cmd α} (h : Cmd.MadeOf none c) : Cmd.ReadsConfigOnly c := by
  generalize ho : none = o at h
  induction h with
  | ret a => exact fun _ _ _ _ => .done a 0
  | raise e => exact fun _ _ _ _ => .raised e 0
  | drawIndex k => exact drawIndex_readsConfigOnly k
  | readParams => exact readParams_readsConfigOnly
  | memRead | memWrite | rmwByte => cases ho
  | bind _ _ hc hk => exact (hc ho).bind fun a => hk a ho

theorem Cmd.ReadsConfigOnly.run {c : Cmd Value} (hc : Cmd.ReadsConfigOnly c) {s s' : State}
    (hp : s'.params = s.params) (hd : s'.draws = s.draws) :
    ∃ r n, Cmd.run c s = .next ((s.reserve n).respond r) ∧ Cmd.run c s' = .next ((s'.reserve n).respond r) := by
  have hends := hc s s' hp hd
  unfold Cmd.run
  generalize c s = out, c s' = out' at hends
  cases hends with
  | done v n => exact ⟨.ok v, n, rfl, rfl⟩
  | raised e n => exact ⟨.error e, n, rfl, rfl⟩

/-- Settles O58: a pure command is a sequence of primitives that goes to no device. -/
theorem pureCommandsReadAndTouchNothing : Obligations.PureCommandsReadAndTouchNothing := by
  intro i s s' hpure hp hd
  cases exec_meaning i with
  | pure c _ hc he =>
    rw [he, he]
    exact hc.readsConfigOnly.run hp hd
  | bound k hi _ _ => simp [isBusCommand_of_needsBinding hi] at hpure
  | bind v a hi =>
    subst hi
    cases hpure

end Sys2Proof.Machine
end

section
/-! PROOFS. The assembler (30_encoding.md rules R91 and R92): each row of `assemble` takes the operands of its
instruction and no others, by what each operand form accepts. -/

namespace Sys2Proof.Machine

@[simp] theorem numberByte_toNat (b : Byte) : numberByte b.toNat = some b := (numberByte_eq_some ..).2 rfl

@[simp] theorem numberInt32_toInt (v : INT32) : numberInt32 v.toInt = some v := (numberInt32_eq_some ..).2 rfl

@[simp] theorem numberFlag_ite (v : Bool) : numberFlag (if v then 1 else 0) = some v := (numberFlag_eq_some ..).2 rfl

/-- The operands of a well-formed instruction assemble to it. -/
theorem assemble_of_writtenAs {i : Instr} {args : List AsmOperand} (hwf : i.wf = true) (h : WrittenAs i args) :
    assemble i.opcode args = some i := by
  cases i with
  | dtEnc dt | dtWrite dt =>
    obtain ⟨t, rfl, ht⟩ := h
    rw [← (dateTextValue_eq ..).2 ht]
    rfl
  | dtDec bs =>
    have hlen : bs.length = 7 := beq_iff_eq.1 hwf
    subst h
    exact if_pos hlen
  | almDec chip bs =>
    have hlen : bs.length = 4 := beq_iff_eq.1 hwf
    subst h
    exact if_pos hlen
  | _ =>
    subst h
    simp [assemble, Instr.opcode, byteOperand, intOperand, flagOperand]

/-- What assembles is a well-formed instruction of the mnemonic, and the operands are its own: row by row of
`assemble`, in its order. -/
theorem writtenAs_of_assemble {op : Opcode} {args : List AsmOperand} {i : Instr} (h : assemble op args = some i) :
    i.opcode = op ∧ i.wf = true ∧ WrittenAs i args := by
  unfold assemble at h
  split at h
  case h_26 => cases h
  all_goals
    simp only [Option.map_eq_some_iff, Option.bind_eq_some_iff, numberByte_eq_some, numberInt32_eq_some,
      numberFlag_eq_some, Option.some.injEq, Option.ite_none_right_eq_some] at h
  -- rows without a number
  case h_8 | h_11 | h_12 | h_13 | h_15 | h_17 | h_21 | h_22 | h_23 =>
    subst h
    exact ⟨rfl, rfl, rfl⟩
  -- a date/time
  case h_6 t | h_14 t =>
    subst h
    exact ⟨rfl, rfl, t, rfl, (dateTextValue_eq ..).1 rfl⟩
  -- a byte list of fixed length
  case h_5 | h_7 =>
    obtain ⟨hlen, rfl⟩ := h
    exact ⟨rfl, beq_iff_eq.2 hlen, rfl⟩
  -- one number
  case h_1 | h_2 | h_9 | h_16 | h_18 | h_19 | h_20 =>
    obtain ⟨x, hx, rfl⟩ := h
    rw [hx]
    exact ⟨rfl, rfl, rfl⟩
  -- two numbers
  case h_3 | h_10 | h_24 =>
    obtain ⟨x, hx, y, hy, rfl⟩ := h
    rw [hx, hy]
    exact ⟨rfl, rfl, rfl⟩
  -- three numbers
  case h_4 | h_25 =>
    obtain ⟨x, hx, y, hy, z, hz, rfl⟩ := h
    rw [hx, hy, hz]
    exact ⟨rfl, rfl, rfl⟩

/-- Settles O60: the operands of every instruction assemble to it, and nothing else does. -/
theorem assemblerReachesExactlyTheWellFormedInstructions :
    Obligations.AssemblerReachesExactlyTheWellFormedInstructions := by
  refine ⟨fun op args i => ⟨writtenAs_of_assemble, ?_⟩, fun i hwf => ?_⟩
  · rintro ⟨rfl, hwf, hargs⟩
    exact assemble_of_writtenAs hwf hargs
  · obtain ⟨args, hargs⟩ := exists_writtenAs i
    exact ⟨args, assemble_of_writtenAs hwf hargs⟩

end Sys2Proof.Machine
end

section
/-! PROOFS. The BCD codec (40_bcd_codec.md rules R100 to R104). The two commands are said once as equations of `exec`;
on the digit-valid bytes and 0 to 99 the codec's functions are inverse to each other, and the ranges, injectivity and
surjectivity of R104 follow from that. -/

namespace Sys2Proof.Machine

/-! ### The two commands -/

/-- R81: the word and the payload of an instruction are its own fields and payload. -/
theorem encodesAs_fields_payload (i : Instr) : EncodesAs i i.fields i.payload := ⟨Fields.ofWord_encode i, rfl⟩

theorem exec_bcdDec (s : State) (b : Byte) :
    exec (.bcdDec b) s = .next ((s.reserve 1).respond (.ok (.int32 (bcdDecode s.params s.draws b)))) := rfl

theorem exec_bcdEnc (s : State) (v : INT32) :
    exec (.bcdEnc v) s = .next ((s.reserve 1).respond (.ok (.byte (bcdEncode s.draws v.toInt)))) := rfl

/-! ### The codec on its valid domains -/

/-- R100: the number a digit-valid byte spells. -/
theorem bcdDecode_toInt_of_digitValid (p : Params) (n : Nat) {b : Byte} (hb : digitValid b = true) :
    (bcdDecode p n b).toInt = ((10 * (b.toNat / 16) + b.toNat % 16 : Nat) : Int) :=
  (bcdDecode_decodesTo p n b).1 ((digitValid_iff b).1 hb)

/-- R100: under `formula`, every byte. -/
theorem bcdDecode_toInt_of_formula {p : Params} (hp : p.bcdDecNonDigit = .formula) (n : Nat) (b : Byte) :
    (bcdDecode p n b).toInt = (b.toNat : Int) - 6 * ((b.toNat >>> 4 : Nat) : Int) :=
  (bcdDecode_decodesTo p n b).2.1 hp

/-- R101: the byte of a number of two digits. -/
theorem bcdEncode_toNat (n : Nat) {v : Int} (hv : 0 ≤ v ∧ v ≤ 99) :
    ((bcdEncode n v).toNat : Int) = v + 6 * (v / 10) :=
  (bcdEncode_encodesTo n v).1 hv

/-- R104: the encoder gives digit-valid bytes. -/
theorem digitValid_bcdEncode (n : Nat) {v : Int} (hv : 0 ≤ v ∧ v ≤ 99) : digitValid (bcdEncode n v) = true := by
  have henc := bcdEncode_toNat n hv
  rw [digitValid_iff]
  omega

/-- R104: the decoder takes digit-valid bytes to 0 to 99. -/
theorem bcdDecode_range_of_digitValid (p : Params) (n : Nat) {b : Byte} (hb : digitValid b = true) :
    0 ≤ (bcdDecode p n b).toInt ∧ (bcdDecode p n b).toInt ≤ 99 := by
  have hdec := bcdDecode_toInt_of_digitValid p n hb
  rw [digitValid_iff] at hb
  omega

/-- R104: under `formula`, the decoder takes the other bytes to 10 to 165. -/
theorem bcdDecode_range_of_not_digitValid {p : Params} (hp : p.bcdDecNonDigit = .formula) (n : Nat) {b : Byte}
    (hb : digitValid b = false) : 10 ≤ (bcdDecode p n b).toInt ∧ (bcdDecode p n b).toInt ≤ 165 := by
  have hdec := bcdDecode_toInt_of_formula hp n b
  rw [digitValid_false_iff] at hb
  omega

/-- R103: decoding what the encoder gives, whichever free values the two could have drawn. -/
theorem bcdDecode_bcdEncode_toInt (p : Params) (m n : Nat) {v : Int} (hv : 0 ≤ v ∧ v ≤ 99) :
    (bcdDecode p m (bcdEncode n v)).toInt = v := by
  have henc := bcdEncode_toNat n hv
  have hdec := bcdDecode_toInt_of_digitValid p m (digitValid_bcdEncode n hv)
  omega

theorem bcdDecode_bcdEncode (p : Params) (m n : Nat) {v : INT32} (hv : 0 ≤ v.toInt ∧ v.toInt ≤ 99) :
    bcdDecode p m (bcdEncode n v.toInt) = v :=
  BitVec.eq_of_toInt_eq (bcdDecode_bcdEncode_toInt p m n hv)

/-- R103: encoding what the decoder gives for a digit-valid byte. -/
theorem bcdEncode_bcdDecode (p : Params) (m n : Nat) {b : Byte} (hb : digitValid b = true) :
    bcdEncode m (bcdDecode p n b).toInt = b := by
  have henc := bcdEncode_toNat m (bcdDecode_range_of_digitValid p n hb)
  have hdec := bcdDecode_toInt_of_digitValid p n hb
  rw [digitValid_iff] at hb
  apply BitVec.eq_of_toNat_eq
  omega

/-! ### The obligations -/

/-- Settles O7: the equation of the command, with what `bcdDecode` gives. -/
theorem bcdDecodeCompletes : Obligations.BcdDecodeCompletes := fun s b =>
  ⟨encodesAs_fields_payload (.bcdDec b), _, exec_bcdDec s b, bcdDecode_decodesTo ..⟩

/-- Settles O8: the equation of the command, with what `bcdEncode` gives. -/
theorem bcdEncodeCompletes : Obligations.BcdEncodeCompletes := fun s v =>
  ⟨encodesAs_fields_payload (.bcdEnc v), _, exec_bcdEnc s v, bcdEncode_encodesTo ..⟩

/-- Settles O9: the second command's answer is the codec's inverse law at the parameters and draws it finds. -/
theorem bcdCommandsAreInverse : Obligations.BcdCommandsAreInverse := by
  refine ⟨fun s v hv => ?_, fun s b hb => ?_⟩
  · refine ⟨_, _, _, exec_bcdEnc s v, rfl, exec_bcdDec .., ?_⟩
    rw [bcdDecode_bcdEncode _ _ _ hv]
    rfl
  · refine ⟨_, _, _, exec_bcdDec s b, rfl, exec_bcdEnc .., ?_⟩
    rw [bcdEncode_bcdDecode _ _ _ ((digitValid_iff b).2 hb)]
    rfl

/-- Settles O10: a map with an inverse is one-to-one and onto; the ranges are the codec's own. -/
theorem bcdCodecIsOneToOneOnDigits : Obligations.BcdCodecIsOneToOneOnDigits := by
  refine ⟨fun n m v w hv hw => ⟨digitValid_bcdEncode n hv, fun henc => ?encoder_injective⟩,
    fun n b hb => ⟨_, bcdDecode_range_of_digitValid defaultParams 0 hb, bcdEncode_bcdDecode _ n _ hb⟩,
    fun p n b hp => ⟨bcdDecode_range_of_digitValid p n, bcdDecode_range_of_not_digitValid hp n⟩,
    fun p n m b c _ hb hc hdec => ?decoder_injective,
    fun p n v _ hv => ⟨bcdEncode 0 v, digitValid_bcdEncode 0 hv, bcdDecode_bcdEncode_toInt p n 0 hv⟩,
    fun p n hp => ⟨by decide, bcdDecode_toInt_of_formula hp n 0x0A⟩⟩
  case encoder_injective =>
    calc v = (bcdDecode defaultParams 0 (bcdEncode n v)).toInt := (bcdDecode_bcdEncode_toInt _ _ n hv).symm
      _ = (bcdDecode defaultParams 0 (bcdEncode m w)).toInt := by rw [henc]
      _ = w := bcdDecode_bcdEncode_toInt _ _ m hw
  case decoder_injective =>
    calc b = bcdEncode 0 (bcdDecode p n b).toInt := (bcdEncode_bcdDecode p 0 n hb).symm
      _ = bcdEncode 0 (bcdDecode p m c).toInt := by rw [hdec]
      _ = c := bcdEncode_bcdDecode p 0 m hc

end Sys2Proof.Machine
end

section
/-! PROOFS. The record codecs (41_record_codec.md rules R120 to R127). Each of the four commands is said once as an
equation of `exec`; decoding what the encoder gave is the inverse law of the BCD codec (R103), field by field. A
date/time written to a device and read back goes through the same bytes (44_bus_operations.md rules R202 and R204). -/

namespace Sys2Proof.Machine

/-! ### The commands, and what is no command -/

/-- R82 case 4: an opcode whose row uses CHIP reads no instruction with CHIP 00. -/
theorem needsChip_of_shape {op : Opcode} (hop : op.shape.chip = true) : NeedsChip op.code := by
  intro f p hopc hzero
  rcases hdec : decode ⟨f.toWord, p⟩ with e | i
  · exact ⟨e, rfl⟩
  · obtain ⟨henc, -⟩ := encode_of_decode hdec
    have hfields : i.fields = f := by rw [← Fields.ofWord_encode, henc, Fields.ofWord_toWord]
    have hrow : i.opcode = op := Opcode.eq_of_code_eq (by rw [i.opcode_admits_fields.opc, hfields, hopc])
    obtain ⟨v, hv⟩ := Instr.fields_chip (hrow ▸ hop)
    exact absurd (hfields ▸ hzero) ((Variant.exists_code_eq_iff _).1 ⟨v, hv⟩)

/-- R82: a word that a row admits is decoded by reading the row's operands. -/
theorem decode_of_admits {op : Opcode} {w : Word} (h : op.Admits (Fields.ofWord w)) (p : Value) :
    decode ⟨w, p⟩ = op.operands (Fields.ofWord w) p := by
  obtain ⟨hopc, hrsv, hunused⟩ := h
  simp [decode, ← hopc, hrsv, hunused]

/-- R86: the word of `DT.DEC` leaves to the decoder the test of the payload alone. -/
theorem decode_dtDecWord (p : Value) : decode ⟨0x00000005, p⟩ = p.asBytesOf 7 fun bs => .ok (.dtDec bs) :=
  decode_of_admits (op := .dtDec) ⟨by decide, by decide, by decide⟩ p

theorem Value.asBytesOf_of_length_ne {n : Nat} {bs : List Byte} (h : bs.length ≠ n)
    (k : List Byte → Except DecodeError Instr) : (Value.bytes bs).asBytesOf n k = .error .payloadType := by
  simp [Value.asBytesOf, Value.asBytes, h]

theorem exec_dtDec (s : State) (b : Fin 7 → Byte) :
    exec (.dtDec (List.ofFn b)) s = .next ((s.reserve 8).respond
      (.ok (.dateTime (dateTimeDecode s.params s.draws (b 0) (b 1) (b 2) (b 3) (b 4) (b 5) (b 6))))) := rfl

theorem exec_dtEnc (s : State) (dt : DateTime) :
    exec (.dtEnc dt) s = .next ((s.reserve 7).respond (.ok (.bytes (dateTimeEncode s.draws dt)))) := rfl

theorem exec_almDec_pcf8523 (s : State) (b : Fin 4 → Byte) :
    exec (.almDec .pcf8523 (List.ofFn b)) s = .next ((s.reserve 4).respond
      (.ok (.alarmFields (alarmDecode s.params s.draws (b 0) (b 1) (b 2) (b 3))))) := rfl

theorem exec_almEnc_pcf8523 (s : State) (al : AlarmFields) :
    exec (.almEnc .pcf8523 al) s = .next ((s.reserve 4).respond (.ok (.bytes (alarmEncode s.draws al)))) := rfl

/-- R168: alarm registers are the PCF8523's alone. -/
theorem hasAlarmTime_eq_false {v : Variant} (hv : v ≠ .pcf8523) : hasAlarmTime v = false := by
  cases v with
  | ds1307 | ds3231 => rfl
  | pcf8523 => exact absurd rfl hv

theorem exec_almDec_elsewhere {v : Variant} (hv : v ≠ .pcf8523) (s : State) (b : Fin 4 → Byte) :
    exec (.almDec v (List.ofFn b)) s = .next (s.respond (.error .cap)) :=
  Cmd.run_raised (Cmd.bind_raised (by rw [hasAlarmTime_eq_false hv]; rfl))

theorem exec_almEnc_elsewhere {v : Variant} (hv : v ≠ .pcf8523) (s : State) (al : AlarmFields) :
    exec (.almEnc v al) s = .next (s.respond (.error .cap)) :=
  Cmd.run_raised (Cmd.bind_raised (by rw [hasAlarmTime_eq_false hv]; rfl))

/-! ### Date/times within the wire format -/

/-- The byte of each place of an encoded date/time (R121). -/
def dateTimeBytes (n : Nat) (dt : DateTime) : Fin 7 → Byte := (dateTimeEncode n dt).get

theorem ofFn_dateTimeBytes (n : Nat) (dt : DateTime) : List.ofFn (dateTimeBytes n dt) = dateTimeEncode n dt := rfl

/-- R120: adding 2000 to the two digits of a year stays within INT32. -/
theorem yearDecode_bcdEncode (p : Params) (m n : Nat) {y : INT32} (hy : 2000 ≤ y.toInt ∧ y.toInt ≤ 2099) :
    yearDecode p m (bcdEncode n (y.toInt - 2000)) = y := by
  have hdec : (bcdDecode p m (bcdEncode n (y.toInt - 2000))).toInt + 2000 = y.toInt := by
    rw [bcdDecode_bcdEncode_toInt p m n (by omega)]
    omega
  have hholds : INT32.holds y.toInt := by
    unfold INT32.holds
    omega
  rw [yearDecode, hdec, if_pos hholds, BitVec.ofInt_toInt]

/-- R126: decoding an encoded date/time, whichever free values the two could have drawn. -/
theorem dateTimeDecode_dateTimeBytes (p : Params) (m n : Nat) {dt : DateTime} (h : dateTimeOnWire dt) :
    dateTimeDecode p m (dateTimeBytes n dt 0) (dateTimeBytes n dt 1) (dateTimeBytes n dt 2) (dateTimeBytes n dt 3)
      (dateTimeBytes n dt 4) (dateTimeBytes n dt 5) (dateTimeBytes n dt 6) = { dt with millisecond := 0 } := by
  obtain ⟨hsecond, hminute, hhour, hweekday, hday, hmonth, hyear⟩ := h
  exact (DateTime.mk.injEq ..).mpr ⟨yearDecode_bcdEncode _ _ _ hyear, bcdDecode_bcdEncode _ _ _ hmonth,
    bcdDecode_bcdEncode _ _ _ hday, bcdDecode_bcdEncode _ _ _ hweekday, bcdDecode_bcdEncode _ _ _ hhour,
    bcdDecode_bcdEncode _ _ _ hminute, bcdDecode_bcdEncode _ _ _ hsecond, rfl⟩

theorem exec_dtDec_dateTimeEncode (s : State) (n : Nat) {dt : DateTime} (h : dateTimeOnWire dt) :
    exec (.dtDec (dateTimeEncode n dt)) s =
      .next ((s.reserve 8).respond (.ok (.dateTime { dt with millisecond := 0 }))) := by
  rw [← ofFn_dateTimeBytes, exec_dtDec, dateTimeDecode_dateTimeBytes _ _ _ h]

/-! ### Alarm fields -/

/-- R122: bit 7 of an alarm byte, as a bound. -/
theorem alarmFieldDecode_eq (p : Params) (n : Nat) (x : Byte) :
    alarmFieldDecode p n x = if 128 ≤ x.toNat then none else some (bcdDecode p n x) := by
  have hbit : ∀ x : Byte, x &&& 0x80 ≠ 0 ↔ 128 ≤ x.toNat := by decide
  simp only [alarmFieldDecode, hbit]

/-- R127: 0 to 79 are the numbers whose packed BCD leaves bit 7 clear. -/
theorem alarmFieldDecode_alarmFieldEncode (p : Params) (m n : Nat) {disabled : Byte} (hd : 128 ≤ disabled.toNat)
    {o : Option INT32} (ho : ∀ v, o = some v → 0 ≤ v.toInt ∧ v.toInt ≤ 79) :
    alarmFieldDecode p m (alarmFieldEncode n disabled o) = o := by
  rw [alarmFieldDecode_eq]
  cases o with
  | none => exact if_pos hd
  | some v =>
    have hv := ho v rfl
    have henc := bcdEncode_toNat n (v := v.toInt) (by omega)
    rw [alarmFieldEncode, if_neg (by omega), bcdDecode_bcdEncode _ _ _ (by omega)]

/-- R127: 80 to 99 are the numbers whose packed BCD has bit 7 set, which reads as unset. -/
theorem alarmFieldDecode_alarmFieldEncode_high (p : Params) (m n : Nat) (disabled : Byte) {v : INT32}
    (hv : 80 ≤ v.toInt ∧ v.toInt ≤ 99) : alarmFieldDecode p m (alarmFieldEncode n disabled (some v)) = none := by
  have henc := bcdEncode_toNat n (v := v.toInt) (by omega)
  rw [alarmFieldDecode_eq, alarmFieldEncode, if_pos (by omega)]

/-- R122, R123: what `ALM.DEC` gives for an encoded alarm, each field decoded alone. -/
theorem exec_almDec_alarmEncode (s : State) (n : Nat) (al : AlarmFields) :
    exec (.almDec .pcf8523 (alarmEncode n al)) s = .next ((s.reserve 4).respond (.ok (.alarmFields
      { minute := alarmFieldDecode s.params s.draws (alarmFieldEncode n 0x80 al.minute)
        hour := alarmFieldDecode s.params (s.draws + 1) (alarmFieldEncode (n + 1) 0x80 al.hour)
        day := alarmFieldDecode s.params (s.draws + 2) (alarmFieldEncode (n + 2) 0x80 al.day)
        weekday := alarmFieldDecode s.params (s.draws + 3) (alarmFieldEncode (n + 3) 0xC0 al.weekday) }))) := rfl

/-! ### Date/times on the device -/

/-- R68: where the environment has just changed nothing, a read answers what the registers hold. -/
theorem State.answer_of_unchanged {s : State} {reg : RegNum} {n : Nat} {x : Fin n → Byte}
    (h : s.nextEvent.changes = []) (hx : ∀ i : Fin n, s.dev.read (reg.toNat + i) = some (x i)) :
    s.answer reg n = x := by
  funext i
  exact State.oracle_of_given (by rw [State.takeEvent_dev, h]; exact hx i) _

/-- R161: a date/time block lies within the registers. -/
theorem dateTimeBase_fits (v : Variant) : (dateTimeBase v).toNat + 7 ≤ 256 := by
  cases v <;> decide

/-- R202: `DT.READ` whose read completes. -/
theorem exec_dtRead_of_ok {s : State} {b : Binding} (hb : s.binding = some b) (h : s.nextEvent.answer = .ok)
    {x : Fin 7 → Byte} (hx : s.answer (dateTimeBase b.variant) 7 = x) :
    exec .dtRead s = .next (((s.afterRead b.addr (dateTimeBase b.variant) 7).reserve 8).respond
      (.ok (.dateTime (dateTimeDecode s.params (s.draws + 7) (x 0) (x 1) (x 2) (x 3) (x 4) (x 5) (x 6))))) := by
  subst hx
  refine (run_requireBinding_bound hb).trans (Cmd.run_done ?_)
  rw [Cmd.bind_done (memRead_ok (by decide) (dateTimeBase_fits _) h)]
  rfl

/-- R204: `DT.WRITE` whose pre-step ends in `t` and whose write completes. -/
theorem exec_dtWrite_of_done {s t : State} {b : Binding} (hb : s.binding = some b) (dt : DateTime)
    (hpre : dateTimePreStep b (s.reserve 7) = .done () t) (h : t.nextEvent.answer = .ok) :
    exec (.dtWrite dt) s =
      .next ((t.afterWrite b.addr (dateTimeBase b.variant) (dateTimeEncode s.draws dt)).respond (.ok .none)) := by
  have hlen : (dateTimeEncode s.draws dt).length = 7 := dateTimeEncode_length s.draws dt
  have hfits := dateTimeBase_fits b.variant
  refine (run_requireBinding_bound hb).trans (Cmd.run_done ?_)
  rw [Cmd.bind_done (encodeDateTime_done dt s), show dateTimeEncodeDraws = 7 from rfl, Cmd.bind_done hpre,
    Cmd.bind_done (memWrite_ok (by omega) (by omega) h)]
  rfl

/-- R55: under the simulator oracle a read-modify-write completes. -/
theorem rmwByte_of_no_schedule {s : State} (h : s.bus = []) (a : DevAddr) (reg : RegNum) (f : Byte → Byte) :
    rmwByte a reg f s = .done () ((s.afterRmw a reg f).hold none) :=
  rmwByte_ok (by rw [State.nextEvent_of_no_schedule h]; rfl)
    (by rw [State.nextEvent_of_no_schedule (by simp [h])]; rfl)

/-- R55, R203: under the simulator oracle the pre-step completes, on every variant. -/
theorem dateTimePreStep_of_no_schedule {s : State} (h : s.bus = []) (b : Binding) :
    ∃ t, dateTimePreStep b s = .done () t ∧ t.bus = [] ∧ t.binding = s.binding := by
  unfold dateTimePreStep
  cases b.variant with
  | ds1307 => exact ⟨s, rfl, h, rfl⟩
  | ds3231 | pcf8523 => exact ⟨_, rmwByte_of_no_schedule h .., by simp [h], rfl⟩

/-- R55, R204: under the simulator oracle `DT.WRITE` leaves the encoded date/time in the device. -/
theorem exec_dtWrite_of_no_schedule {s : State} {b : Binding} (hb : s.binding = some b) (h : s.bus = [])
    (dt : DateTime) :
    ∃ t, exec (.dtWrite dt) s = .next t ∧ t.binding = some b ∧ t.bus = [] ∧
      ∀ i : Fin 7, t.dev.read ((dateTimeBase b.variant).toNat + i) = some (dateTimeBytes s.draws dt i) := by
  obtain ⟨t, hpre, hbus, hbinding⟩ := dateTimePreStep_of_no_schedule (s := s.reserve 7) h b
  have hok : t.nextEvent.answer = .ok := by rw [State.nextEvent_of_no_schedule hbus]; rfl
  refine ⟨_, exec_dtWrite_of_done hb dt hpre hok, hbinding.trans hb, by simp [hbus], fun i => ?_⟩
  exact Memory.read_writeBytes_at (dateTimeEncode s.draws dt) _ _ i i.isLt

/-! ### The obligations -/

/-- Settles O11: the equation of the command, with what `dateTimeDecode` gives, and the test of the payload. -/
theorem dateTimeDecodeCompletes : Obligations.DateTimeDecodeCompletes :=
  ⟨fun s b => ⟨encodesAs_fields_payload (.dtDec (List.ofFn b)), _, exec_dtDec s b, dateTimeDecode_blockDecodesTo ..⟩,
    fun bs hbs => (decode_dtDecWord (.bytes bs)).trans (Value.asBytesOf_of_length_ne hbs _)⟩

/-- Settles O12: the equation of the command, with what `dateTimeEncode` gives. -/
theorem dateTimeEncodeCompletes : Obligations.DateTimeEncodeCompletes := fun s dt =>
  ⟨encodesAs_fields_payload (.dtEnc dt), _, exec_dtEnc s dt, dateTimeEncode_blockEncodesTo ..⟩

/-- Settles O13: the codec's inverse law, at the parameters and draws the second command finds. -/
theorem dateTimeSurvivesTheCodec : Obligations.DateTimeSurvivesTheCodec := fun s dt h =>
  ⟨_, _, _, exec_dtEnc s dt, rfl, exec_dtDec_dateTimeEncode _ s.draws h, rfl⟩

/-- Settles O14: the command's equation on PCF8523, each field as `alarmFieldDecode` gives it, and the one elsewhere. -/
theorem alarmDecodeCompletes : Obligations.AlarmDecodeCompletes := by
  intro s v b
  refine ⟨encodesAs_fields_payload (.almDec v (List.ofFn b)), needsChip_of_shape (op := .almDec) rfl, ?_,
    fun hv => exec_almDec_elsewhere hv s b⟩
  rintro rfl
  exact ⟨_, exec_almDec_pcf8523 s b, alarmFieldDecode_fieldDecodesTo .., alarmFieldDecode_fieldDecodesTo ..,
    alarmFieldDecode_fieldDecodesTo .., alarmFieldDecode_fieldDecodesTo ..⟩

/-- Settles O15: the command's equation on PCF8523, each byte as `alarmFieldEncode` gives it, and the one elsewhere. -/
theorem alarmEncodeCompletes : Obligations.AlarmEncodeCompletes := by
  intro s v al
  refine ⟨encodesAs_fields_payload (.almEnc v al), needsChip_of_shape (op := .almEnc) rfl, ?_,
    fun hv => exec_almEnc_elsewhere hv s al⟩
  rintro rfl
  exact ⟨_, exec_almEnc_pcf8523 s al, _, _, _, _, rfl, alarmFieldEncode_fieldEncodesTo ..,
    alarmFieldEncode_fieldEncodesTo .., alarmFieldEncode_fieldEncodesTo .., alarmFieldEncode_fieldEncodesTo ..⟩

/-- Settles O16: the answer of the second command has each field through `alarmFieldDecode` of its own byte. -/
theorem alarmSurvivesTheCodec : Obligations.AlarmSurvivesTheCodec := by
  refine ⟨fun s al hal => ?survives, fun s al v hv => ?high⟩
  case survives =>
    refine ⟨_, _, _, exec_almEnc_pcf8523 s al, rfl, exec_almDec_alarmEncode _ s.draws al, ?_⟩
    rw [alarmFieldDecode_alarmFieldEncode _ _ _ (by decide) fun v hv => hal v (.inl hv),
      alarmFieldDecode_alarmFieldEncode _ _ _ (by decide) fun v hv => hal v (.inr (.inl hv)),
      alarmFieldDecode_alarmFieldEncode _ _ _ (by decide) fun v hv => hal v (.inr (.inr (.inl hv))),
      alarmFieldDecode_alarmFieldEncode _ _ _ (by decide) fun v hv => hal v (.inr (.inr (.inr hv)))]
    rfl
  case high =>
    refine ⟨_, _, _, _, exec_almEnc_pcf8523 s al, rfl, exec_almDec_alarmEncode _ s.draws al, rfl, ?_, ?_, ?_, ?_⟩ <;>
      (intro hset; simp only [hset, alarmFieldDecode_alarmFieldEncode_high _ _ _ _ hv])

/-- Settles O32: the read answers the bytes the write left, and they decode to the date/time (R126). -/
theorem dateTimeReadsBackAsWritten : Obligations.DateTimeReadsBackAsWritten := by
  intro s v a dt hl hc ha hbus hwire
  obtain ⟨t, hwrite, hbinding, htbus, hdev⟩ :=
    exec_dtWrite_of_no_schedule (State.binding_of_ready hl hc ha) hbus dt
  have hquiet : t.nextEvent = quietEvent := State.nextEvent_of_no_schedule htbus
  have hanswer : t.answer (dateTimeBase v) 7 = dateTimeBytes s.draws dt :=
    State.answer_of_unchanged (by rw [hquiet]; rfl) hdev
  refine ⟨t, _, hwrite, exec_dtRead_of_ok hbinding (by rw [hquiet]; rfl) hanswer, ?_⟩
  rw [dateTimeDecode_dateTimeBytes _ _ _ hwire]
  rfl

end Sys2Proof.Machine
end

section
/-! PROOFS. Flag composition (42_flag_composition.md rules R140 to R146). The merge is said once bit by bit, the
four commands once as equations of `exec`, one for each way their transactions can be answered. A register flag reads
back as it was set because the merge, masked again, is the whole mask or nothing. -/

namespace Sys2Proof.Machine

/-! ### The test and the merge -/

/-- R140: the test as the comparison the spec writes. -/
theorem flagTest_eq (b m : Byte) : flagTest b m = decide (b &&& m = m) := rfl

/-- R141: each bit of a merge, inside and outside the mask. -/
theorem getLsbD_flagMerge (b m : Byte) (v : Bool) {i : Nat} (hi : i < 8) :
    (flagMerge b m v).getLsbD i = if m.getLsbD i then v else b.getLsbD i := by
  cases v with
  | true => cases hm : m.getLsbD i <;> simp [flagMerge, hm]
  | false =>
    rw [flagMerge, if_neg Bool.false_ne_true, BitVec.getLsbD_and, BitVec.getLsbD_not]
    cases m.getLsbD i <;> simp [hi]

/-- R141: a merge holds the whole mask or nothing of it. -/
theorem flagMerge_and_mask (b m : Byte) (v : Bool) : flagMerge b m v &&& m = if v then m else 0 := by
  apply BitVec.eq_of_getLsbD_eq
  intro i hi
  rw [BitVec.getLsbD_and, getLsbD_flagMerge b m v hi]
  cases hm : m.getLsbD i with
  | true => cases v <;> simp [hm]
  | false => cases v <;> simp [hm]

/-- R146: testing what a merge gave; an empty mask tests true whatever was merged. -/
theorem flagTest_flagMerge (b m : Byte) (v : Bool) :
    flagTest (flagMerge b m v) m = if m = 0 then true else v := by
  rw [flagTest_eq, flagMerge_and_mask]
  cases v with
  | true => simp
  | false => simp [eq_comm (a := 0#8) (b := m)]

/-! ### The states of a read-modify-write -/

/-- R30, R80: the response lets the held byte go, so what was held does not show. -/
theorem State.respond_hold (s : State) (x : Option Byte) (y : Response) : (s.hold x).respond y = s.respond y := rfl

/-- R62, R68: a read answers the byte the environment has just put into the register. -/
theorem State.answerByte_of_changed {s : State} {r : RegNum} {z : Byte} (h : s.nextEvent.changes = [(r, z)]) :
    s.answerByte r = z :=
  State.oracle_of_given (by rw [State.takeEvent_dev, h]; exact Memory.read_write_same ..) _

/-! ### The commands -/

theorem exec_flagTest (s : State) (b m : Byte) :
    exec (.flagTest b m) s = .next (s.respond (.ok (.bool (flagTest b m)))) := rfl

theorem exec_flagMerge (s : State) (b m : Byte) (v : Bool) :
    exec (.flagMerge b m v) s = .next (s.respond (.ok (.byte (flagMerge b m v)))) := rfl

section RegisterFlags

variable {s : State} {b : Binding}

/-- R142: `RFLAG.GET` whose read completes. -/
theorem exec_rflagGet_of_ok (hb : s.binding = some b) (r : RegNum) (m : Byte) (h : s.nextEvent.answer = .ok) :
    exec (.rflagGet r m) s =
      .next ((s.afterRead b.addr r 1).respond (.ok (.bool (flagTest (s.answerByte r) m)))) := by
  refine (run_requireBinding_bound hb).trans (Cmd.run_done ?_)
  rw [Cmd.bind_done (readByte_ok h)]
  rfl

/-- R142, R54: `RFLAG.GET` whose read fails. -/
theorem exec_rflagGet_of_fail (hb : s.binding = some b) (r : RegNum) (m : Byte) {e : XErr} {landed : List Bool}
    (h : s.nextEvent.answer = .fail e landed) :
    exec (.rflagGet r m) s = .next ((s.afterFailedRead b.addr r 1 e).respond (.error (.xport e))) :=
  (run_requireBinding_bound hb).trans (Cmd.run_raised (Cmd.bind_raised (readByte_fail h)))

/-- R143: `RFLAG.SET` whose two transactions complete. -/
theorem exec_rflagSet_of_ok (hb : s.binding = some b) (r : RegNum) (m : Byte) (v : Bool)
    (h : s.nextEvent.answer = .ok) (h' : s.takeEvent.nextEvent.answer = .ok) :
    exec (.rflagSet r m v) s =
      .next ((s.afterRmw b.addr r fun x => flagMerge x m v).respond (.ok .none)) := by
  rw [← State.respond_hold _ none]
  refine (run_requireBinding_bound hb).trans (Cmd.run_done ?_)
  rw [Cmd.bind_done (rmwByte_ok h h')]
  rfl

/-- R143, R224: `RFLAG.SET` whose read fails. -/
theorem exec_rflagSet_read_fails (hb : s.binding = some b) (r : RegNum) (m : Byte) (v : Bool) {e : XErr}
    {landed : List Bool} (h : s.nextEvent.answer = .fail e landed) :
    exec (.rflagSet r m v) s = .next ((s.afterFailedRead b.addr r 1 e).respond (.error (.xport e))) :=
  (run_requireBinding_bound hb).trans (Cmd.run_raised (Cmd.bind_raised (rmwByte_read_fails h)))

/-- R143, R224: `RFLAG.SET` whose write fails (DEDUCED, log entry 14). The held byte is gone with the response. -/
theorem exec_rflagSet_write_fails (hb : s.binding = some b) (r : RegNum) (m : Byte) (v : Bool) {e : XErr}
    {landed : List Bool} (h : s.nextEvent.answer = .ok) (h' : s.takeEvent.nextEvent.answer = .fail e landed) :
    exec (.rflagSet r m v) s =
      .next (((s.afterRead b.addr r 1).afterFailedWrite b.addr r [flagMerge (s.answerByte r) m v] e landed).respond
        (.error (.xport e))) := by
  rw [← State.respond_hold _ (some (s.answerByte r))]
  exact (run_requireBinding_bound hb).trans (Cmd.run_raised (Cmd.bind_raised (rmwByte_write_fails h h')))

/-- R146: where nothing happens at its two transactions, `RFLAG.SET` leaves the merge in the register. -/
theorem exec_rflagSet_of_quiet (hb : s.binding = some b) {r : RegNum} {x : Byte} (m : Byte) (v : Bool)
    (hx : s.dev.read r.toNat = some x) (h : s.nextEvent = quietEvent) (h' : s.takeEvent.nextEvent = quietEvent) :
    ∃ t, exec (.rflagSet r m v) s = .next t ∧ t.binding = some b ∧ t.dev.read r.toNat = some (flagMerge x m v) ∧
      t.bus = s.bus.tail.tail := by
  have hread : s.answerByte r = x := State.answerByte_of_unchanged (by rw [h]; rfl) hx
  refine ⟨_, exec_rflagSet_of_ok hb r m v (by rw [h]; rfl) (by rw [h']; rfl), hb, ?_, rfl⟩
  rw [State.respond_dev, State.afterRmw_dev, Memory.read_write_same, hread]

end RegisterFlags

/-! ### The obligations -/

/-- Settles O17: the equation of the command, with the test as the spec writes it. -/
theorem flagTestCompletes : Obligations.FlagTestCompletes := fun s b m =>
  ⟨encodesAs_fields_payload (.flagTest b m), flagTest_eq b m ▸ exec_flagTest s b m⟩

/-- Settles O18: the equation of the command, with the merge as the spec writes it. -/
theorem flagMergeCompletes : Obligations.FlagMergeCompletes := fun s b m v =>
  ⟨encodesAs_fields_payload (.flagMerge b m v), flagMerge_eq b m v ▸ exec_flagMerge s b m v⟩

/-- Settles O19: the merge, bit by bit. -/
theorem flagMergeChangesOnlyTheMask : Obligations.FlagMergeChangesOnlyTheMask := fun b m v _ hi =>
  getLsbD_flagMerge b m v hi

/-- Settles O20: the check of the binding, then each answer of the transport to the read. -/
theorem registerFlagGetCompletes : Obligations.RegisterFlagGetCompletes := by
  refine fun s r m => ⟨encodesAs_fields_payload (.rflagGet r m),
    fun hl => run_requireBinding_unbound (State.binding_of_unbound hl), fun v a hl hc ha => ?_⟩
  have hb : s.binding = some ⟨v, a⟩ := State.binding_of_ready hl hc ha
  exact ⟨exec_rflagGet_of_ok hb r m, fun _ _ => exec_rflagGet_of_fail hb r m⟩

/-- Settles O21: the check of the binding, then each answer of the transport to the read and to the write. -/
theorem registerFlagSetCompletes : Obligations.RegisterFlagSetCompletes := by
  refine fun s r m v => ⟨encodesAs_fields_payload (.rflagSet r m v),
    fun hl => run_requireBinding_unbound (State.binding_of_unbound hl), fun chip a hl hc ha => ?_⟩
  have hb : s.binding = some ⟨chip, a⟩ := State.binding_of_ready hl hc ha
  simp only [← flagMerge_eq]
  exact ⟨exec_rflagSet_of_ok hb r m v, fun _ _ => exec_rflagSet_read_fails hb r m v,
    fun _ _ => exec_rflagSet_write_fails hb r m v⟩

/-- Settles O22: the read finds the merge the write left, and tests it with its own mask; where the environment wrote
in between, it finds what the environment wrote. -/
theorem registerFlagReadsBackWhatWasSet : Obligations.RegisterFlagReadsBackWhatWasSet := by
  intro s chip a r x m v hl hc ha hx
  have hb : s.binding = some ⟨chip, a⟩ := State.binding_of_ready hl hc ha
  refine ⟨fun hbus => ?undisturbed, fun z hbus => ?changed⟩
  case undisturbed =>
    obtain ⟨t, hset, hbinding, hdev, htbus⟩ := exec_rflagSet_of_quiet hb m v hx
      (State.nextEvent_of_no_schedule hbus) (State.nextEvent_of_no_schedule (by simp [hbus]))
    have hquiet : t.nextEvent = quietEvent := State.nextEvent_of_no_schedule (by simp [htbus, hbus])
    have hanswer : t.answerByte r = flagMerge x m v := State.answerByte_of_unchanged (by rw [hquiet]; rfl) hdev
    refine ⟨t, _, hset, hdev, exec_rflagGet_of_ok hbinding r m (by rw [hquiet]; rfl), ?_⟩
    rw [hanswer, flagTest_flagMerge]
    rfl
  case changed =>
    obtain ⟨t, hset, hbinding, -, htbus⟩ := exec_rflagSet_of_quiet hb m v hx
      (State.nextEvent_of_bus hbus) (State.nextEvent_of_bus (by rw [State.takeEvent_bus, hbus]; rfl))
    have hchange : t.nextEvent = ⟨[(r, z)], .ok⟩ := State.nextEvent_of_bus (htbus.trans (by rw [hbus]; rfl))
    have hanswer : t.answerByte r = z := State.answerByte_of_changed (by rw [hchange])
    refine ⟨t, _, hset, exec_rflagGet_of_ok hbinding r m (by rw [hchange]), ?_⟩
    rw [hanswer]
    rfl

end Sys2Proof.Machine
end

section
/-! PROOFS. The register map (43_register_map.md rules R160 to R180). What the two lookups in a frequency table do as
pieces of a command is said once, from the lookups' own lemmas in Laws/Tables; each way `FREQ.DEC`, `FREQ.ENC` and
`MAP` can end is an equation of `exec`. The PCF8523 table has a row for each value of its three-bit field. -/

namespace Sys2Proof.Machine

/-! ### What is no command -/

/-- R82: a command in one of the six cases does not decode. -/
theorem exists_error_of_illegalCommand {c : Command} (h : illegalCommand c) : ∃ e, decode c = .error e := by
  rcases hdec : decode c with e | i
  · exact ⟨e, rfl⟩
  · exact absurd h (not_illegalCommand_iff.2 ⟨i, hdec⟩)

/-- R82 case 5: an opcode whose row uses ACC reads no instruction with an ACC of 5 or more. -/
theorem needsAccessor_of_shape {op : Opcode} (hop : op.shape.acc = true) : NeedsAccessor op.code := by
  refine fun f p hopc hfive => exists_error_of_illegalCommand (.inr (.inr ⟨op, ?_⟩))
  rw [Fields.ofWord_toWord]
  exact ⟨hopc.symm, .inr (.inr (.inl ⟨hop, hfive⟩))⟩

/-! ### The lookups as pieces of a command -/

section Lookups

variable {T : FreqTable} {row : FreqRow}

/-- R172: looking up a key of the table. -/
theorem requireFreq_of_mem (hwf : freqTableWf T = true) (hrow : row ∈ T.rows) (s : State) :
    requireFreq T row.key s = .done row.pattern s := by
  rw [requireFreq, freqPattern_of_mem hwf hrow]
  rfl

/-- R172: looking up a value that is no key of the table. -/
theorem requireFreq_of_no_key {hz : INT32} (h : ∀ row ∈ T.rows, row.key ≠ hz) (s : State) :
    requireFreq T hz s = .raised (.value (freqKeys T)) s := by
  rw [requireFreq, freqPattern_none h]
  rfl

/-- R173: looking up a byte that holds a pattern of the table. -/
theorem decodeFreq_of_mem (hwf : freqTableWf T = true) (hrow : row ∈ T.rows) {x : Byte}
    (hx : row.pattern = x &&& T.mask) (s : State) : decodeFreq T x s = .done row.key s := by
  rw [decodeFreq, freqKey_of_mem hwf hrow hx]
  rfl

/-- R173: looking up a byte that holds no pattern of the table. -/
theorem decodeFreq_of_no_pattern {x : Byte} (h : ∀ row ∈ T.rows, row.pattern ≠ x &&& T.mask) (s : State) :
    decodeFreq T x s = .raised (.pattern x) s := by
  rw [decodeFreq, freqKey_none h]
  rfl

/-- R174: in `direct` mode the pattern is the whole byte. -/
theorem freqPlace_of_direct (h : T.mode = .direct) (old pat : Byte) : freqPlace T old pat = pat := by
  rw [freqPlace, h]

/-- R174: in `rmw` mode the pattern replaces the bits of the field mask. -/
theorem freqPlace_of_rmw (h : T.mode = .rmw) (old pat : Byte) :
    freqPlace T old pat = (old &&& ~~~T.mask) ||| pat := by
  rw [freqPlace, h]

end Lookups

/-! ### The commands -/

section TableCommands

variable {s : State} {v : Variant}

/-- R178: `FREQ.DEC` of a byte that holds a row's pattern. -/
theorem exec_freqDec_of_mem (hwf : freqTableWf (freqTable s.params v) = true) {row : FreqRow}
    (hrow : row ∈ (freqTable s.params v).rows) {r : Byte} (hr : row.pattern = r &&& (freqTable s.params v).mask) :
    exec (.freqDec v r) s = .next (s.respond (.ok (.int32 row.key))) := by
  refine Cmd.run_done ?_
  rw [Cmd.bind_done (readParams_done s), Cmd.bind_done (decodeFreq_of_mem hwf hrow hr s)]
  rfl

/-- R178: `FREQ.DEC` of a byte that holds no row's pattern. -/
theorem exec_freqDec_of_no_pattern {r : Byte}
    (h : ∀ row ∈ (freqTable s.params v).rows, row.pattern ≠ r &&& (freqTable s.params v).mask) :
    exec (.freqDec v r) s = .next (s.respond (.error (.pattern r))) := by
  refine Cmd.run_raised ?_
  rw [Cmd.bind_done (readParams_done s), Cmd.bind_raised (decodeFreq_of_no_pattern h s)]

/-- R179: `FREQ.ENC` of a row's key, in either write mode. -/
theorem exec_freqEnc_of_mem (hwf : freqTableWf (freqTable s.params v) = true) {row : FreqRow}
    (hrow : row ∈ (freqTable s.params v).rows) (r : Byte) :
    exec (.freqEnc v r row.key) s =
      .next (s.respond (.ok (.byte (freqPlace (freqTable s.params v) r row.pattern)))) := by
  refine Cmd.run_done ?_
  rw [Cmd.bind_done (readParams_done s), Cmd.bind_done (requireFreq_of_mem hwf hrow s)]
  rfl

/-- R179: `FREQ.ENC` of a value that is no key. -/
theorem exec_freqEnc_of_no_key {hz : INT32} (h : ∀ row ∈ (freqTable s.params v).rows, row.key ≠ hz) (r : Byte) :
    exec (.freqEnc v r hz) s = .next (s.respond (.error (.value (freqKeys (freqTable s.params v))))) := by
  refine Cmd.run_raised ?_
  rw [Cmd.bind_done (readParams_done s), Cmd.bind_raised (requireFreq_of_no_key h s)]

/-- R180: `MAP` of a cell that holds an entry, whatever its access. -/
theorem exec_map_of_some {acc : Accessor} {e : MapEntry} (h : dispatch s.params v acc = some e) :
    exec (.map v acc) s = .next (s.respond (.ok (.mapEntry e))) :=
  Cmd.run_done (Cmd.bind_done (resolve_some h))

/-- R180: `MAP` of an `E_CAP` cell. -/
theorem exec_map_of_none {acc : Accessor} (h : dispatch s.params v acc = none) :
    exec (.map v acc) s = .next (s.respond (.error .cap)) :=
  Cmd.run_raised (Cmd.bind_raised (resolve_none h))

end TableCommands

/-! ### The PCF8523 table -/

/-- R177: the rows' patterns are the field values 0 to 7, in place at bits 5:3. -/
theorem pcf8523Rows_map_pattern (k : F0Key) :
    (pcf8523Rows k).map FreqRow.pattern = (List.range 8).map fun n => BitVec.ofNat 8 (n * 8) := rfl

/-- R177: each field value has a row. -/
theorem exists_pcf8523Row_of_field (k : F0Key) {n : Nat} (hn : n < 8) :
    ∃ row ∈ pcf8523Rows k, row.pattern = BitVec.ofNat 8 (n * 8) := by
  rw [← List.mem_map, pcf8523Rows_map_pattern]
  exact List.mem_map_of_mem (List.mem_range.2 hn)

/-- R177: the field mask picks bits 5:3. -/
theorem and_pcf8523Mask (r : Byte) : r &&& 0x38 = BitVec.ofNat 8 (r.toNat / 8 % 8 * 8) := by
  revert r
  decide

/-- R171, R177: the PCF8523 table is a frequency table under either `PCF8523_F0_KEY`. -/
theorem freqTableWf_pcf8523 (p : Params) : freqTableWf (freqTable p .pcf8523) = true := by
  rw [freqTable]
  cases p.pcf8523F0Key <;> decide

/-! ### The obligations -/

/-- Settles O24: each cell as the dispatch table gives it. -/
theorem accessorDispatchTable : Obligations.AccessorDispatchTable := by
  intro p
  and_intros <;> rfl

/-- Settles O25: the lookup of the byte's field finds its one row or none. -/
theorem frequencyDecodeCompletes : Obligations.FrequencyDecodeCompletes := fun _ v r hwf =>
  ⟨encodesAs_fields_payload (.freqDec v r), needsChip_of_shape (op := .freqDec) rfl,
    fun _ hrow hr => exec_freqDec_of_mem hwf hrow hr, exec_freqDec_of_no_pattern⟩

/-- Settles O26: bits 5:3 of the byte are a field value, so they have a row, and the lookup finds it. -/
theorem pcf8523DecodingNeverMisses : Obligations.Pcf8523DecodingNeverMisses := by
  intro s r
  obtain ⟨row, hrow, hpattern⟩ :=
    exists_pcf8523Row_of_field s.params.pcf8523F0Key (Nat.mod_lt (r.toNat / 8) (by decide : 0 < 8))
  exact ⟨row, hrow, hpattern,
    exec_freqDec_of_mem (freqTableWf_pcf8523 s.params) hrow (hpattern.trans (and_pcf8523Mask r).symm)⟩

/-- Settles O27: the lookup of the value finds its one row, whose pattern the write mode puts into the byte, or none. -/
theorem frequencyEncodeCompletes : Obligations.FrequencyEncodeCompletes := by
  refine fun s v r hz hwf => ⟨encodesAs_fields_payload (.freqEnc v r hz), needsChip_of_shape (op := .freqEnc) rfl,
    ?_, fun hnone => exec_freqEnc_of_no_key hnone r⟩
  rintro row hrow rfl
  refine ⟨fun hmode => ?_, fun hmode => ?_⟩
  · rw [exec_freqEnc_of_mem hwf hrow, freqPlace_of_direct hmode]
  · rw [exec_freqEnc_of_mem hwf hrow, freqPlace_of_rmw hmode]

/-- Settles O28: the cell of the dispatch table holds an entry or none. -/
theorem mapCompletes : Obligations.MapCompletes := fun _ v acc =>
  ⟨encodesAs_fields_payload (.map v acc), needsChip_of_shape (op := .map) rfl,
    needsAccessor_of_shape (op := .map) rfl, fun _ => exec_map_of_some, exec_map_of_none⟩

end Sys2Proof.Machine
end

section
/-! PROOFS. Binding, and the date/time of the bound variant (44_bus_operations.md rules R200 to R204). How a command ends
whose next piece is a write or a read-modify-write is said once (`run_…`), for each answer of the transport, and so is the
check of a capability. Every bus command is brought to that form, once for each way its checks can go (`exec_…`). -/

namespace Sys2Proof.Machine

/-! ### Running a command piece by piece -/

section Pieces

variable {α : Type} {s t : State}

theorem Cmd.run_bind_done {c : Cmd α} {k : α → Cmd Value} {x : α} (h : c s = .done x t) :
    Cmd.run (c.bind k) s = Cmd.run (k x) t := by
  simp only [Cmd.run, Cmd.bind_done h]

theorem Cmd.run_bind_raised {c : Cmd α} {k : α → Cmd Value} {e : Err} (h : c s = .raised e t) :
    Cmd.run (c.bind k) s = .next (t.respond (.error e)) :=
  Cmd.run_raised (Cmd.bind_raised h)

end Pieces

section Endings

variable {s : State} {a : DevAddr} {reg : RegNum}

/-- R53: a command that ends with a write which completes. -/
theorem run_memWrite_ok {bs : List Byte} (hn : 1 ≤ bs.length) (hr : reg.toNat + bs.length ≤ 256)
    (h : s.nextEvent.answer = .ok) :
    Cmd.run ((memWrite a reg bs).bind fun _ => Cmd.ret .none) s =
      .next ((s.afterWrite a reg bs).respond (.ok .none)) :=
  Cmd.run_bind_done (memWrite_ok hn hr h)

/-- R143: a command that ends with a read-modify-write which completes. -/
theorem run_rmwByte_ok {f : Byte → Byte} (h : s.nextEvent.answer = .ok) (h' : s.takeEvent.nextEvent.answer = .ok) :
    Cmd.run ((rmwByte a reg f).bind fun _ => Cmd.ret .none) s =
      .next ((s.afterRmw a reg f).respond (.ok .none)) := by
  rw [Cmd.run_bind_done (rmwByte_ok h h'), ← State.respond_hold _ none]
  rfl

/-- R224: a read-modify-write whose read fails, whatever was to come after it. -/
theorem run_rmwByte_read_fails {f : Byte → Byte} {k : Unit → Cmd Value} {e : XErr} {landed : List Bool}
    (h : s.nextEvent.answer = .fail e landed) :
    Cmd.run ((rmwByte a reg f).bind k) s = .next ((s.afterFailedRead a reg 1 e).respond (.error (.xport e))) :=
  Cmd.run_bind_raised (rmwByte_read_fails h)

/-- R224: a read-modify-write whose write fails, whatever was to come after it (DEDUCED, log entry 14). The held byte is
gone with the response. -/
theorem run_rmwByte_write_fails {f : Byte → Byte} {k : Unit → Cmd Value} {e : XErr} {landed : List Bool}
    (h : s.nextEvent.answer = .ok) (h' : s.takeEvent.nextEvent.answer = .fail e landed) :
    Cmd.run ((rmwByte a reg f).bind k) s =
      .next (((s.afterRead a reg 1).afterFailedWrite a reg [f (s.answerByte reg)] e landed).respond
        (.error (.xport e))) := by
  rw [Cmd.run_bind_raised (rmwByte_write_fails h h'), State.respond_hold]

end Endings

section Checks

variable {s : State} {b : Binding} {cap : Variant → Bool} {k : Binding → Cmd Value}

/-- R261 check 4: on a variant without the capability the command ends there. -/
theorem run_requireCap_missing (hb : s.binding = some b) (hcap : cap b.variant = false) :
    Cmd.run (requireBinding.bind fun b => (requireCap (cap b.variant)).bind fun _ => k b) s =
      .next (s.respond (.error .cap)) :=
  (run_requireBinding_bound hb).trans (Cmd.run_bind_raised (by rw [hcap]; rfl))

/-- R261 check 4: on a variant with the capability the check passes. -/
theorem run_requireCap_supported (hb : s.binding = some b) (hcap : cap b.variant = true) :
    Cmd.run (requireBinding.bind fun b => (requireCap (cap b.variant)).bind fun _ => k b) s = Cmd.run (k b) s :=
  (run_requireBinding_bound hb).trans (Cmd.run_bind_done (by rw [hcap]; rfl))

end Checks

/-! ### BIND -/

section Bind

variable {s : State}

/-- R261 check 2: `BIND` of a bound block. -/
theorem exec_bind_of_ready (h : s.life = .ready) (v : Variant) (a : DevAddr) :
    exec (.bind v a) s = .next (s.respond (.error .rebind)) :=
  Cmd.run_bind_raised (requireUnbound_ready h)

/-- R200: `BIND` of an unbound block is the variant's initialisation and then the writing of the binding. -/
theorem exec_bind_of_unbound (h : s.life = .unbound) (v : Variant) (a : DevAddr) :
    exec (.bind v a) s =
      Cmd.run ((constructionInit v a).bind fun _ => (commitBinding v a).bind fun _ => Cmd.ret .none) s :=
  Cmd.run_bind_done (requireUnbound_unbound h)

/-- R200: the DS1307 and the DS3231 have no initialisation. -/
theorem constructionInit_elsewhere {v : Variant} (hv : v ≠ .pcf8523) (a : DevAddr) :
    constructionInit v a = Cmd.ret () := by
  cases v with
  | ds1307 | ds3231 => rfl
  | pcf8523 => exact absurd rfl hv

/-- R201: bits 7:5 are those outside 0x1F. -/
theorem initControl3_eq (a : DevAddr) : initControl3 a = rmwByte a control3 fun x => x &&& 0x1F := rfl

/-- R200: `BIND` of an unbound block to a variant without initialisation. -/
theorem exec_bind_elsewhere (h : s.life = .unbound) {v : Variant} (hv : v ≠ .pcf8523) (a : DevAddr) :
    exec (.bind v a) s = .next ((s.commit v a).respond (.ok .none)) := by
  rw [exec_bind_of_unbound h, constructionInit_elsewhere hv]
  rfl

/-- R200, R201: `BIND` of an unbound block to a PCF8523 whose initialisation completes. -/
theorem exec_bind_pcf8523_of_ok (h : s.life = .unbound) (a : DevAddr) (hr : s.nextEvent.answer = .ok)
    (hw : s.takeEvent.nextEvent.answer = .ok) :
    exec (.bind .pcf8523 a) s =
      .next (((s.afterRmw a control3 fun x => x &&& 0x1F).commit .pcf8523 a).respond (.ok .none)) := by
  rw [exec_bind_of_unbound h, constructionInit, initControl3_eq, Cmd.run_bind_done (rmwByte_ok hr hw)]
  rfl

end Bind

/-- Settles O29: the check of LIFE, then each answer of the transport to the initialisation. -/
theorem bindCompletes : Obligations.BindCompletes := by
  refine fun s v a => ⟨encodesAs_fields_payload (.bind v a), needsChip_of_shape (op := .bind) rfl,
    fun hl => exec_bind_of_ready hl v a, fun hl hv => exec_bind_elsewhere hl hv a, ?_⟩
  rintro hl rfl
  refine ⟨exec_bind_pcf8523_of_ok hl a, fun e landed hr => ?_, fun e landed hr hw => ?_⟩
  · rw [exec_bind_of_unbound hl]
    exact run_rmwByte_read_fails hr
  · rw [exec_bind_of_unbound hl]
    exact run_rmwByte_write_fails hr hw

/-! ### DT.READ and DT.WRITE -/

section DateTime

variable {s t : State} {b : Binding}

/-- R161: the base registers, as the statements list them. -/
theorem eq_dateTimeBase_of_mem {v : Variant} {base : RegNum}
    (h : (v, base) ∈ [(Variant.ds1307, (0x00 : RegNum)), (.ds3231, 0x00), (.pcf8523, 0x03)]) :
    base = dateTimeBase v := by
  simp only [List.mem_cons, Prod.mk.injEq, List.not_mem_nil, or_false] at h
  rcases h with ⟨rfl, rfl⟩ | ⟨rfl, rfl⟩ | ⟨rfl, rfl⟩ <;> rfl

/-- R202: `DT.READ` whose read fails. -/
theorem exec_dtRead_of_fail (hb : s.binding = some b) {e : XErr} {landed : List Bool}
    (h : s.nextEvent.answer = .fail e landed) :
    exec .dtRead s =
      .next ((s.afterFailedRead b.addr (dateTimeBase b.variant) 7 e).respond (.error (.xport e))) :=
  (run_requireBinding_bound hb).trans
    (Cmd.run_bind_raised (memRead_fail (by decide) (dateTimeBase_fits b.variant) h))

/-- R204: on a bound block `DT.WRITE` encodes the date/time, and then come the pre-step and the write. -/
theorem exec_dtWrite_of_bound (hb : s.binding = some b) (dt : DateTime) :
    exec (.dtWrite dt) s =
      Cmd.run ((dateTimePreStep b).bind fun _ =>
        (memWrite b.addr (dateTimeBase b.variant) (dateTimeEncode s.draws dt)).bind fun _ => Cmd.ret .none)
        (s.reserve 7) :=
  (run_requireBinding_bound hb).trans (Cmd.run_bind_done (encodeDateTime_done dt s))

/-- R204, R224: `DT.WRITE` whose pre-step ends in `t` and whose write fails (DEDUCED, log entry 14). -/
theorem exec_dtWrite_write_fails (hb : s.binding = some b) (dt : DateTime)
    (hpre : dateTimePreStep b (s.reserve 7) = .done () t) {e : XErr} {landed : List Bool}
    (h : t.nextEvent.answer = .fail e landed) :
    exec (.dtWrite dt) s =
      .next ((t.afterFailedWrite b.addr (dateTimeBase b.variant) (dateTimeEncode s.draws dt) e landed).respond
        (.error (.xport e))) := by
  have hlen : (dateTimeEncode s.draws dt).length = 7 := dateTimeEncode_length s.draws dt
  have hfits := dateTimeBase_fits b.variant
  rw [exec_dtWrite_of_bound hb, Cmd.run_bind_done hpre]
  exact Cmd.run_bind_raised (memWrite_fail (by omega) (by omega) h)

/-- R203: the register `pre` whose bits outside `keep` the pre-step clears, on the variants that have one. -/
theorem dateTimePreStep_of_mem {v : Variant} {pre base : RegNum} {keep : Byte}
    (h : (v, pre, base, keep) ∈ [(Variant.ds3231, (0x0F : RegNum), (0x00 : RegNum), (0x7F : Byte)),
      (.pcf8523, 0x02, 0x03, 0xEF)]) (a : DevAddr) :
    dateTimePreStep ⟨v, a⟩ = rmwByte a pre (fun x => x &&& keep) ∧ base = dateTimeBase v := by
  simp only [List.mem_cons, Prod.mk.injEq, List.not_mem_nil, or_false] at h
  rcases h with ⟨rfl, rfl, rfl, rfl⟩ | ⟨rfl, rfl, rfl, rfl⟩ <;> exact ⟨rfl, rfl⟩

variable {pre : RegNum} {f : Byte → Byte}

/-- R203: a pre-step both of whose transactions complete. -/
theorem dateTimePreStep_rmw_ok (hpre : dateTimePreStep b = rmwByte b.addr pre f) (hr : s.nextEvent.answer = .ok)
    (hw : s.takeEvent.nextEvent.answer = .ok) :
    dateTimePreStep b (s.reserve 7) = .done () (((s.reserve 7).afterRmw b.addr pre f).hold none) := by
  rw [hpre]
  exact rmwByte_ok hr hw

/-- R204: `DT.WRITE` with a pre-step, every transaction of which completes. -/
theorem exec_dtWrite_rmw_of_ok (hb : s.binding = some b) (dt : DateTime)
    (hpre : dateTimePreStep b = rmwByte b.addr pre f) (hr : s.nextEvent.answer = .ok)
    (hw : s.takeEvent.nextEvent.answer = .ok) (h : s.takeEvent.takeEvent.nextEvent.answer = .ok) :
    exec (.dtWrite dt) s =
      .next ((((s.reserve 7).afterRmw b.addr pre f).afterWrite b.addr (dateTimeBase b.variant)
        (dateTimeEncode s.draws dt)).respond (.ok .none)) := by
  rw [exec_dtWrite_of_done hb dt (dateTimePreStep_rmw_ok hpre hr hw) h]
  rfl

/-- R204, R224: `DT.WRITE` whose pre-step completes and whose write fails (DEDUCED, log entry 14). -/
theorem exec_dtWrite_rmw_write_fails (hb : s.binding = some b) (dt : DateTime)
    (hpre : dateTimePreStep b = rmwByte b.addr pre f) (hr : s.nextEvent.answer = .ok)
    (hw : s.takeEvent.nextEvent.answer = .ok) {e : XErr} {landed : List Bool}
    (h : s.takeEvent.takeEvent.nextEvent.answer = .fail e landed) :
    exec (.dtWrite dt) s =
      .next ((((s.reserve 7).afterRmw b.addr pre f).afterFailedWrite b.addr (dateTimeBase b.variant)
        (dateTimeEncode s.draws dt) e landed).respond (.error (.xport e))) := by
  rw [exec_dtWrite_write_fails hb dt (dateTimePreStep_rmw_ok hpre hr hw) h]
  rfl

end DateTime

/-- Settles O30: the bytes of the block, as `dateTimeDecode` reads them, or the failure. -/
theorem dateTimeReadCompletes : Obligations.DateTimeReadCompletes := by
  intro s v a base hl hc ha hbase
  have hb : s.binding = some ⟨v, a⟩ := State.binding_of_ready hl hc ha
  rw [eq_dateTimeBase_of_mem hbase]
  exact ⟨encodesAs_fields_payload .dtRead,
    fun h => ⟨_, exec_dtRead_of_ok hb h rfl, dateTimeDecode_blockDecodesTo ..⟩, fun _ _ => exec_dtRead_of_fail hb⟩

/-- Settles O31: the variant's pre-step, none or a read-modify-write, and each answer of the transport to it and to the
write. -/
theorem dateTimeWriteCompletes : Obligations.DateTimeWriteCompletes := by
  intro s v a dt hl hc ha
  have hb : s.binding = some ⟨v, a⟩ := State.binding_of_ready hl hc ha
  refine ⟨encodesAs_fields_payload (.dtWrite dt), _, dateTimeEncode_blockEncodesTo s.draws dt, ?ds1307, ?ds1307_fails,
    ?ds3231, ?pcf8523, ?fails⟩
  case ds1307 =>
    rintro rfl h
    exact exec_dtWrite_of_done hb dt rfl h
  case ds1307_fails =>
    rintro rfl e landed h
    exact exec_dtWrite_write_fails hb dt rfl h
  case ds3231 =>
    rintro rfl hr hw h
    exact exec_dtWrite_rmw_of_ok hb dt rfl hr hw h
  case pcf8523 =>
    rintro rfl hr hw h
    exact exec_dtWrite_rmw_of_ok hb dt rfl hr hw h
  case fails =>
    intro pre base keep hmem e landed
    obtain ⟨hpre, rfl⟩ := dateTimePreStep_of_mem hmem a
    refine ⟨fun hr => ?_, fun hr hw => ?_, fun hr hw => exec_dtWrite_rmw_write_fails hb dt hpre hr hw⟩
    · rw [exec_dtWrite_of_bound hb, hpre]
      exact run_rmwByte_read_fails hr
    · rw [exec_dtWrite_of_bound hb, hpre]
      exact run_rmwByte_write_fails hr hw

end Sys2Proof.Machine
end

section
/-! PROOFS. The named flags and the square-wave frequency of the bound variant (44_bus_operations.md rules R205 to
R213). A frequency reads back as it was set because the field of the byte written holds the row's pattern, and no other
row has it (R171). -/

namespace Sys2Proof.Machine

/-! ### What a flag reports of the byte read -/

/-- R140: the test asks that every bit of the mask stands set in the byte. -/
theorem flagTest_iff (x m : Byte) : flagTest x m = true ↔ ∀ i < 8, m.getLsbD i = true → x.getLsbD i = true := by
  rw [flagTest_eq, decide_eq_true_iff, BitVec.eq_of_getLsbD_eq_iff]
  simp only [BitVec.getLsbD_and, Bool.and_eq_right_iff_imp]

/-- R140: a mask made of two is tested by testing both. -/
theorem flagTest_or (x m n : Byte) : flagTest x (m ||| n) = (flagTest x m && flagTest x n) := by
  rw [Bool.eq_iff_iff, Bool.and_eq_true]
  simp only [flagTest_iff, BitVec.getLsbD_or, Bool.or_eq_true, or_imp, forall_and]

/-- R140: a mask of one bit tests that bit. -/
theorem flagTest_twoPow (x : Byte) {i : Nat} (hi : i < 8) : flagTest x (BitVec.twoPow 8 i) = x.getLsbD i := by
  rw [Bool.eq_iff_iff, flagTest_iff]
  simp only [BitVec.getLsbD_twoPow, Bool.and_eq_true, decide_eq_true_eq]
  exact ⟨fun h => h i hi ⟨hi, rfl⟩, fun h j _ ⟨_, hij⟩ => hij ▸ h⟩

/-- R206: the reading through an entry, as the spec writes it. -/
theorem entryReading_eq (e : MapEntry) (x : Byte) :
    entryReading e x = xor e.invert (decide (x &&& e.mask = e.mask)) := by
  rw [← flagTest_eq, entryReading]
  cases e.invert <;> simp

/-- Settles O34: each mask is one bit, or for the DS3231's alarms two. -/
theorem flagReadingsByVariant : Obligations.FlagReadingsByVariant := by
  intro p x e
  have bit2 : flagTest x 0x04 = x.getLsbD 2 := flagTest_twoPow x (i := 2) (by decide)
  have bit3 : flagTest x 0x08 = x.getLsbD 3 := flagTest_twoPow x (i := 3) (by decide)
  have bit4 : flagTest x 0x10 = x.getLsbD 4 := flagTest_twoPow x (i := 4) (by decide)
  have bit7 : flagTest x 0x80 = x.getLsbD 7 := flagTest_twoPow x (i := 7) (by decide)
  have bits10 : flagTest x 0x03 = (x.getLsbD 1 && x.getLsbD 0) := by
    rw [← flagTest_twoPow x (by decide : 1 < 8), ← flagTest_twoPow x (by decide : 0 < 8), ← flagTest_or]
    rfl
  refine ⟨?running, ?_, ?_, ?_, ?_, ?_, ?_, ?_⟩
  case running =>
    rintro ⟨⟩
    exact ⟨rfl, by rw [entryReading, bit7]⟩
  all_goals rintro ⟨⟩
  · exact ⟨rfl, bit7⟩
  · exact ⟨rfl, bits10⟩
  · exact ⟨rfl, bit7⟩
  · exact ⟨rfl, bit4⟩
  · exact ⟨rfl, bit3⟩
  · exact ⟨rfl, bit4⟩
  · exact ⟨rfl, bit2⟩

/-! ### FLAG.GET and FLAG.SET -/

section NamedFlags

variable {s : State} {b : Binding} {acc : Accessor} {e : MapEntry}

/-- R205: `FLAG.GET` of a flag the variant does not have. -/
theorem exec_flagGet_of_none (hb : s.binding = some b) (he : dispatch s.params b.variant acc = none) :
    exec (.flagGet acc) s = .next (s.respond (.error .cap)) :=
  (run_requireBinding_bound hb).trans (Cmd.run_bind_raised (resolve_none he))

/-- R206: `FLAG.GET` of a flag the variant has reads the entry's register. -/
theorem exec_flagGet_of_some (hb : s.binding = some b) (he : dispatch s.params b.variant acc = some e) :
    exec (.flagGet acc) s =
      Cmd.run ((readByte b.addr e.reg).bind fun x => Cmd.ret (.bool (entryReading e x))) s :=
  (run_requireBinding_bound hb).trans (Cmd.run_bind_done (resolve_some he))

/-- R205: `FLAG.SET` of a flag the variant does not have. -/
theorem exec_flagSet_of_none (hb : s.binding = some b) (he : dispatch s.params b.variant acc = none) (on : Bool) :
    exec (.flagSet acc on) s = .next (s.respond (.error .cap)) :=
  (run_requireBinding_bound hb).trans (Cmd.run_bind_raised (resolve_none he))

/-- R170: `FLAG.SET` of a read-only flag. -/
theorem exec_flagSet_of_ro (hb : s.binding = some b) (he : dispatch s.params b.variant acc = some e)
    (hro : e.access = .ro) (on : Bool) : exec (.flagSet acc on) s = .next (s.respond (.error .cap)) := by
  refine (run_requireBinding_bound hb).trans ((Cmd.run_bind_done (resolve_some he)).trans (Cmd.run_bind_raised ?_))
  rw [requireWritable, hro]
  rfl

/-- R208: `FLAG.SET` of a writable flag is the merge of its mask in the entry's register. -/
theorem exec_flagSet_of_rw (hb : s.binding = some b) (he : dispatch s.params b.variant acc = some e)
    (hrw : e.access = .rw) (on : Bool) :
    exec (.flagSet acc on) s =
      Cmd.run ((rmwByte b.addr e.reg fun x => flagMerge x e.mask on).bind fun _ => Cmd.ret .none) s := by
  refine (run_requireBinding_bound hb).trans ((Cmd.run_bind_done (resolve_some he)).trans
    (Cmd.run_bind_done (x := ()) ?_))
  rw [requireWritable, hrw]
  rfl

end NamedFlags

/-- Settles O33: the cell of the dispatch table is empty, or its register is read. -/
theorem flagGetCompletes : Obligations.FlagGetCompletes := by
  intro s v a acc hl hc ha
  have hb : s.binding = some ⟨v, a⟩ := State.binding_of_ready hl hc ha
  refine ⟨encodesAs_fields_payload (.flagGet acc), needsAccessor_of_shape (op := .flagGet) rfl,
    exec_flagGet_of_none hb, fun e he => ⟨fun h => ?_, fun x landed h => ?_⟩⟩ <;> rw [exec_flagGet_of_some hb he]
  · rw [Cmd.run_bind_done (readByte_ok h), ← entryReading_eq]
    rfl
  · exact Cmd.run_bind_raised (readByte_fail h)

/-- Settles O35: the cell of the dispatch table is empty, read-only, or its mask is merged. -/
theorem flagSetCompletes : Obligations.FlagSetCompletes := by
  intro s v a acc on hl hc ha
  have hb : s.binding = some ⟨v, a⟩ := State.binding_of_ready hl hc ha
  refine ⟨encodesAs_fields_payload (.flagSet acc on), needsAccessor_of_shape (op := .flagSet) rfl,
    fun he => exec_flagSet_of_none hb he on, fun e he hro => exec_flagSet_of_ro hb he hro on,
    fun e he hrw hr hw => ?_, fun e he hrw x landed => ⟨fun hr => ?_, fun hr hw => ?_⟩⟩ <;>
    rw [exec_flagSet_of_rw hb he hrw]
  · exact run_rmwByte_ok hr hw
  · exact run_rmwByte_read_fails hr
  · exact run_rmwByte_write_fails hr hw

/-! ### FREQ.GET and FREQ.SET -/

section Frequencies

variable {s : State} {b : Binding} {row : FreqRow}

/-- R211: the square-wave registers, as the statements list them. -/
theorem eq_squareWaveReg_of_mem {v : Variant} {reg : RegNum}
    (h : (v, reg) ∈ [(Variant.ds1307, (0x07 : RegNum)), (.ds3231, 0x0E), (.pcf8523, 0x0F)]) :
    reg = squareWaveReg v := by
  simp only [List.mem_cons, Prod.mk.injEq, List.not_mem_nil, or_false] at h
  rcases h with ⟨rfl, rfl⟩ | ⟨rfl, rfl⟩ | ⟨rfl, rfl⟩ <;> rfl

/-- R174: only the DS1307's register is written whole. -/
theorem freqTable_mode {v : Variant} (hv : v ≠ .ds1307) (p : Params) : (freqTable p v).mode = .rmw := by
  cases v with
  | ds1307 => exact absurd rfl hv
  | ds3231 | pcf8523 => rfl

/-- R210: `FREQ.GET` of a bound block reads the square-wave register and looks the byte up. -/
theorem exec_freqGet_of_bound (hb : s.binding = some b) :
    exec .freqGet s =
      Cmd.run ((readByte b.addr (squareWaveReg b.variant)).bind fun x =>
        (decodeFreq (freqTable s.params b.variant) x).bind fun k => Cmd.ret (.int32 k)) s :=
  (run_requireBinding_bound hb).trans (Cmd.run_bind_done (readParams_done s))

/-- R210: `FREQ.GET` where the byte read holds a row's pattern. -/
theorem exec_freqGet_of_mem (hb : s.binding = some b) (hwf : freqTableWf (freqTable s.params b.variant) = true)
    (h : s.nextEvent.answer = .ok) (hrow : row ∈ (freqTable s.params b.variant).rows)
    (hx : row.pattern = s.answerByte (squareWaveReg b.variant) &&& (freqTable s.params b.variant).mask) :
    exec .freqGet s =
      .next ((s.afterRead b.addr (squareWaveReg b.variant) 1).respond (.ok (.int32 row.key))) := by
  rw [exec_freqGet_of_bound hb, Cmd.run_bind_done (readByte_ok h), Cmd.run_bind_done (decodeFreq_of_mem hwf hrow hx _)]
  rfl

/-- R210: `FREQ.GET` where the byte read holds no row's pattern. -/
theorem exec_freqGet_of_no_pattern (hb : s.binding = some b) (h : s.nextEvent.answer = .ok)
    (hx : ∀ row ∈ (freqTable s.params b.variant).rows,
      row.pattern ≠ s.answerByte (squareWaveReg b.variant) &&& (freqTable s.params b.variant).mask) :
    exec .freqGet s =
      .next ((s.afterRead b.addr (squareWaveReg b.variant) 1).respond
        (.error (.pattern (s.answerByte (squareWaveReg b.variant))))) := by
  rw [exec_freqGet_of_bound hb, Cmd.run_bind_done (readByte_ok h),
    Cmd.run_bind_raised (decodeFreq_of_no_pattern hx _)]

/-- R210, R54: `FREQ.GET` whose read fails. -/
theorem exec_freqGet_of_fail (hb : s.binding = some b) {e : XErr} {landed : List Bool}
    (h : s.nextEvent.answer = .fail e landed) :
    exec .freqGet s =
      .next ((s.afterFailedRead b.addr (squareWaveReg b.variant) 1 e).respond (.error (.xport e))) := by
  rw [exec_freqGet_of_bound hb]
  exact Cmd.run_bind_raised (readByte_fail h)

/-- R212: `FREQ.SET` of a value that is no key. -/
theorem exec_freqSet_of_no_key (hb : s.binding = some b) {hz : INT32}
    (h : ∀ row ∈ (freqTable s.params b.variant).rows, row.key ≠ hz) :
    exec (.freqSet hz) s = .next (s.respond (.error (.value (freqKeys (freqTable s.params b.variant))))) :=
  (run_requireBinding_bound hb).trans
    ((Cmd.run_bind_done (readParams_done s)).trans (Cmd.run_bind_raised (requireFreq_of_no_key h s)))

/-- R212: `FREQ.SET` of a row's key puts its pattern into the square-wave register. -/
theorem exec_freqSet_of_mem (hb : s.binding = some b) (hwf : freqTableWf (freqTable s.params b.variant) = true)
    (hrow : row ∈ (freqTable s.params b.variant).rows) :
    exec (.freqSet row.key) s =
      Cmd.run ((writeFreq b (freqTable s.params b.variant) row.pattern).bind fun _ => Cmd.ret .none) s :=
  (run_requireBinding_bound hb).trans
    ((Cmd.run_bind_done (readParams_done s)).trans (Cmd.run_bind_done (requireFreq_of_mem hwf hrow s)))

/-- R212: in `direct` mode the write is one of the pattern alone. -/
theorem writeFreq_of_direct {T : FreqTable} (h : T.mode = .direct) (b : Binding) (pat : Byte) :
    writeFreq b T pat = memWrite b.addr (squareWaveReg b.variant) [pat] := by
  simp only [writeFreq, h]

/-- R212: in `rmw` mode the write is a read-modify-write that keeps the bits outside the mask. -/
theorem writeFreq_of_rmw {T : FreqTable} (h : T.mode = .rmw) (b : Binding) (pat : Byte) :
    writeFreq b T pat = rmwByte b.addr (squareWaveReg b.variant) fun x => (x &&& ~~~T.mask) ||| pat := by
  simp only [writeFreq, h, freqPlace_of_rmw h]

/-- R171: a row's pattern stays within the mask. -/
theorem pattern_and_mask {T : FreqTable} (hwf : freqTableWf T = true) (hrow : row ∈ T.rows) :
    row.pattern &&& T.mask = row.pattern := by
  simp only [freqTableWf, Bool.and_eq_true, List.all_eq_true, beq_iff_eq] at hwf
  obtain ⟨⟨hwithin, -⟩, -⟩ := hwf
  have hall : T.mask ||| ~~~T.mask = BitVec.allOnes 8 := by simp
  calc row.pattern &&& T.mask = (row.pattern &&& T.mask) ||| (row.pattern &&& ~~~T.mask) := by
        rw [hwithin row hrow]; simp
    _ = row.pattern := by rw [← BitVec.and_or_distrib_left, hall, BitVec.and_allOnes]

/-- R173, R174: in either write mode, the field of a byte that a row's pattern was put into holds that pattern. -/
theorem freqPlace_and_mask {T : FreqTable} (hwf : freqTableWf T = true) (hrow : row ∈ T.rows) (old : Byte) :
    freqPlace T old row.pattern &&& T.mask = row.pattern := by
  cases hmode : T.mode with
  | direct => rw [freqPlace_of_direct hmode, pattern_and_mask hwf hrow]
  | rmw =>
    rw [freqPlace_of_rmw hmode, BitVec.and_or_distrib_right, pattern_and_mask hwf hrow]
    simp [BitVec.and_assoc]

/-- R55, R212: under the simulator oracle the pattern is put into the register, over what the register held. -/
theorem writeFreq_of_no_schedule (h : s.bus = []) (b : Binding) (T : FreqTable) (pat : Byte) :
    ∃ t old, writeFreq b T pat s = .done () t ∧ t.binding = s.binding ∧ t.params = s.params ∧ t.bus = [] ∧
      t.dev.read (squareWaveReg b.variant).toNat = some (freqPlace T old pat) := by
  cases hmode : T.mode with
  | direct =>
    have hok : s.nextEvent.answer = .ok := by rw [State.nextEvent_of_no_schedule h]; rfl
    simp only [writeFreq_of_direct hmode, freqPlace_of_direct hmode]
    exact ⟨_, 0, memWrite_ok le_rfl (BitVec.isLt (squareWaveReg b.variant)) hok, rfl, rfl, by simp [h],
      Memory.read_write_same ..⟩
  | rmw =>
    simp only [writeFreq_of_rmw hmode, freqPlace_of_rmw hmode]
    exact ⟨_, s.answerByte (squareWaveReg b.variant), rmwByte_of_no_schedule h .., rfl, rfl, by simp [h],
      Memory.read_write_same ..⟩

end Frequencies

/-- Settles O36: each answer of the transport to the read, and each of the lookup to the byte. -/
theorem frequencyGetCompletes : Obligations.FrequencyGetCompletes := by
  intro s v a reg hl hc ha hreg hwf
  have hb : s.binding = some ⟨v, a⟩ := State.binding_of_ready hl hc ha
  rw [eq_squareWaveReg_of_mem hreg]
  exact ⟨encodesAs_fields_payload .freqGet,
    fun h => ⟨fun _ hrow hx => exec_freqGet_of_mem hb hwf h hrow hx, exec_freqGet_of_no_pattern hb h⟩,
    fun _ _ => exec_freqGet_of_fail hb⟩

/-- Settles O37: the lookup of the key, then each answer of the transport to the write of the pattern. -/
theorem frequencySetCompletes : Obligations.FrequencySetCompletes := by
  intro s v a reg hz hl hc ha hreg hwf
  have hb : s.binding = some ⟨v, a⟩ := State.binding_of_ready hl hc ha
  obtain rfl := eq_squareWaveReg_of_mem hreg
  refine ⟨encodesAs_fields_payload (.freqSet hz), ?_, exec_freqSet_of_no_key hb⟩
  rintro row hrow rfl
  rw [exec_freqSet_of_mem hb hwf hrow]
  refine ⟨?direct, ?direct_fails, fun hv hr hw => ?rmw, fun hv e landed => ⟨fun hr => ?read_fails,
    fun hr hw => ?write_fails⟩⟩
  case direct =>
    rintro rfl h
    rw [writeFreq_of_direct rfl]
    exact run_memWrite_ok le_rfl (BitVec.isLt _) h
  case direct_fails =>
    rintro rfl e landed h
    rw [writeFreq_of_direct rfl]
    exact Cmd.run_bind_raised (memWrite_fail le_rfl (BitVec.isLt _) h)
  all_goals rw [writeFreq_of_rmw (freqTable_mode hv s.params)]
  case rmw => exact run_rmwByte_ok hr hw
  case read_fails => exact run_rmwByte_read_fails hr
  case write_fails => exact run_rmwByte_write_fails hr hw

/-- Settles O38: the field of the byte that `FREQ.SET` left holds the row's pattern, which no other row has. -/
theorem frequencyReadsBackAsSet : Obligations.FrequencyReadsBackAsSet := by
  intro s v a row hl hc ha hbus hwf hrow
  have hb : s.binding = some ⟨v, a⟩ := State.binding_of_ready hl hc ha
  obtain ⟨t, old, hset, hbinding, hparams, htbus, hdev⟩ :=
    writeFreq_of_no_schedule hbus ⟨v, a⟩ (freqTable s.params v) row.pattern
  have hquiet : (t.respond (.ok .none)).nextEvent = quietEvent := State.nextEvent_of_no_schedule htbus
  have hanswer := State.answerByte_of_unchanged (s := t.respond (.ok .none)) (by rw [hquiet]; rfl) hdev
  refine ⟨t.respond (.ok .none), _, ?_,
    exec_freqGet_of_mem (row := row) (hbinding.trans hb) ?_ (by rw [hquiet]; rfl) ?_ ?_, rfl⟩
  · rw [exec_freqSet_of_mem hb hwf hrow, Cmd.run_bind_done hset]
    rfl
  all_goals rw [State.respond_params, hparams]
  · exact hwf
  · exact hrow
  · rw [hanswer, freqPlace_and_mask hwf hrow]

end Sys2Proof.Machine
end

section
/-! PROOFS. The commands one variant alone has (44_bus_operations.md rules R214 to R223): the NVRAM of the DS1307, the
alarm block and the software reset of the PCF8523. Elsewhere each ends at its check of the capability. NVRAM bytes and
alarms read back as written because the read finds the bytes that the write left. -/

namespace Sys2Proof.Machine

/-! ### MEM.READ and MEM.WRITE -/

/-- R168: NVRAM is the DS1307's alone. -/
theorem hasNvram_eq_false {v : Variant} (hv : v ≠ .ds1307) : hasNvram v = false := by
  cases v with
  | ds1307 => exact absurd rfl hv
  | ds3231 | pcf8523 => rfl

/-- R162: the registers of the NVRAM addresses. -/
theorem toNat_nvramBase_add {a : Byte} (ha : a.toNat ≤ 55) : (nvramBase + a).toNat = 8 + a.toNat := by
  rw [BitVec.toNat_add, show nvramBase.toNat = 8 from rfl]
  omega

/-- R162, R217: register numbers run along with NVRAM addresses. -/
theorem toNat_nvramBase_add_ofNat {a : Byte} {i : Nat} (h : a.toNat + i ≤ 55) :
    (a + BitVec.ofNat 8 i).toNat ≤ 55 ∧ (nvramBase + (a + BitVec.ofNat 8 i)).toNat = (nvramBase + a).toNat + i := by
  have haddr : (a + BitVec.ofNat 8 i).toNat = a.toNat + i := by
    rw [BitVec.toNat_add, BitVec.toNat_ofNat]
    omega
  refine ⟨by omega, ?_⟩
  rw [toNat_nvramBase_add (by omega), toNat_nvramBase_add (by omega), haddr, Nat.add_assoc]

section Nvram

variable {s : State} {b : Binding} {a : Byte} {bs : List Byte}

/-- R215: a piece of a command that runs only within the NVRAM. -/
theorem run_requireRange_inside {k : Unit → Cmd Value} {n : Nat} (h : a.toNat ≤ 55 ∧ a.toNat + n ≤ 56) :
    Cmd.run ((requireRange (nvramFits a n)).bind k) s = Cmd.run (k ()) s :=
  Cmd.run_bind_done (by rw [(nvramFits_iff a n).2 h]; rfl)

/-- R215: outside the NVRAM the command ends there. -/
theorem run_requireRange_outside {k : Unit → Cmd Value} {n : Nat} (h : ¬(a.toNat ≤ 55 ∧ a.toNat + n ≤ 56)) :
    Cmd.run ((requireRange (nvramFits a n)).bind k) s = .next (s.respond (.error .range)) := by
  rw [← nvramFits_iff, Bool.not_eq_true] at h
  exact Cmd.run_bind_raised (by rw [h]; rfl)

theorem exec_memRead_elsewhere (hb : s.binding = some b) (hv : b.variant ≠ .ds1307) :
    exec (.memRead a) s = .next (s.respond (.error .cap)) :=
  run_requireCap_missing (cap := hasNvram) hb (hasNvram_eq_false hv)

theorem exec_memRead_outside (hb : s.binding = some b) (hv : b.variant = .ds1307) (ha : 56 ≤ a.toNat) :
    exec (.memRead a) s = .next (s.respond (.error .range)) :=
  (run_requireCap_supported (cap := hasNvram) hb (by rw [hv]; rfl)).trans (run_requireRange_outside (by omega))

/-- R214: within the NVRAM `MEM.READ` reads the address's register. -/
theorem exec_memRead_inside (hb : s.binding = some b) (hv : b.variant = .ds1307) (ha : a.toNat ≤ 55) :
    exec (.memRead a) s = Cmd.run ((readByte b.addr (nvramBase + a)).bind fun x => Cmd.ret (.byte x)) s :=
  (run_requireCap_supported (cap := hasNvram) hb (by rw [hv]; rfl)).trans (run_requireRange_inside (by omega))

/-- R214: `MEM.READ` whose read completes. -/
theorem exec_memRead_of_ok (hb : s.binding = some b) (hv : b.variant = .ds1307) (ha : a.toNat ≤ 55)
    (h : s.nextEvent.answer = .ok) :
    exec (.memRead a) s =
      .next ((s.afterRead b.addr (nvramBase + a) 1).respond (.ok (.byte (s.answerByte (nvramBase + a))))) := by
  rw [exec_memRead_inside hb hv ha]
  exact Cmd.run_bind_done (readByte_ok h)

theorem exec_memWrite_elsewhere (hb : s.binding = some b) (hv : b.variant ≠ .ds1307) :
    exec (.memWrite a bs) s = .next (s.respond (.error .cap)) :=
  run_requireCap_missing (cap := hasNvram) hb (hasNvram_eq_false hv)

theorem exec_memWrite_outside (hb : s.binding = some b) (hv : b.variant = .ds1307)
    (h : ¬(a.toNat ≤ 55 ∧ a.toNat + bs.length ≤ 56)) :
    exec (.memWrite a bs) s = .next (s.respond (.error .range)) :=
  (run_requireCap_supported (cap := hasNvram) hb (by rw [hv]; rfl)).trans (run_requireRange_outside h)

/-- R216: an empty list within the NVRAM issues no transaction. -/
theorem exec_memWrite_empty (hb : s.binding = some b) (hv : b.variant = .ds1307) (ha : a.toNat ≤ 55) :
    exec (.memWrite a []) s = .next (s.respond (.ok .none)) :=
  (run_requireCap_supported (cap := hasNvram) hb (by rw [hv]; rfl)).trans
    (run_requireRange_inside ⟨ha, by simp only [List.length_nil]; omega⟩)

/-- R216: within the NVRAM `MEM.WRITE` of some bytes is one write from the address's register. -/
theorem exec_memWrite_inside (hb : s.binding = some b) (hv : b.variant = .ds1307) (hne : bs ≠ [])
    (h : a.toNat ≤ 55 ∧ a.toNat + bs.length ≤ 56) :
    exec (.memWrite a bs) s =
      Cmd.run ((memWrite b.addr (nvramBase + a) bs).bind fun _ => Cmd.ret .none) s := by
  refine (run_requireCap_supported (cap := hasNvram) hb (by rw [hv]; rfl)).trans
    ((run_requireRange_inside h).trans ?_)
  rw [if_neg (by simpa using hne)]

/-- R216: `MEM.WRITE` whose write completes. -/
theorem exec_memWrite_of_ok (hb : s.binding = some b) (hv : b.variant = .ds1307) (hne : bs ≠ [])
    (hfit : a.toNat ≤ 55 ∧ a.toNat + bs.length ≤ 56) (h : s.nextEvent.answer = .ok) :
    exec (.memWrite a bs) s = .next ((s.afterWrite b.addr (nvramBase + a) bs).respond (.ok .none)) := by
  have hreg := toNat_nvramBase_add (a := a) (by omega)
  rw [exec_memWrite_inside hb hv hne hfit]
  exact run_memWrite_ok (List.length_pos_of_ne_nil hne) (by omega) h

end Nvram

/-- Settles O39: the two checks, then each answer of the transport to the read. -/
theorem nvramReadCompletes : Obligations.NvramReadCompletes := by
  intro s v addr a hl hc ha
  have hb : s.binding = some ⟨v, addr⟩ := State.binding_of_ready hl hc ha
  refine ⟨encodesAs_fields_payload (.memRead a), exec_memRead_elsewhere hb, exec_memRead_outside hb,
    exec_memRead_of_ok hb, fun hv hin e landed h => ?_⟩
  rw [exec_memRead_inside hb hv hin]
  exact Cmd.run_bind_raised (readByte_fail h)

/-- Settles O40: the two checks, the empty list, then each answer of the transport to the write. -/
theorem nvramWriteCompletes : Obligations.NvramWriteCompletes := by
  intro s v addr a bs hl hc ha
  have hb : s.binding = some ⟨v, addr⟩ := State.binding_of_ready hl hc ha
  refine ⟨encodesAs_fields_payload (.memWrite a bs), exec_memWrite_elsewhere hb,
    fun hv hout => exec_memWrite_outside hb hv (by omega), ?empty, fun hv hne hfit => ?bytes⟩
  case empty =>
    rintro hv hin rfl
    exact exec_memWrite_empty hb hv hin
  case bytes =>
    have hlen : 1 ≤ bs.length := List.length_pos_of_ne_nil hne
    have hin : a.toNat ≤ 55 ∧ a.toNat + bs.length ≤ 56 := by omega
    refine ⟨exec_memWrite_of_ok hb hv hne hin, fun e landed h => ?_⟩
    have hreg := toNat_nvramBase_add (a := a) (by omega)
    rw [exec_memWrite_inside hb hv hne hin]
    exact Cmd.run_bind_raised (memWrite_fail hlen (by omega) h)

/-- R216: a `MEM.WRITE` that ended with `OK` was within the NVRAM. -/
theorem nvramFits_of_ok {s t : State} {b : Binding} {a : Byte} {bs : List Byte} (hb : s.binding = some b)
    (hv : b.variant = .ds1307) (hexec : exec (.memWrite a bs) s = .next t)
    (hresp : t.responses = s.responses ++ [.ok .none]) : a.toNat ≤ 55 ∧ a.toNat + bs.length ≤ 56 := by
  by_contra hout
  rw [exec_memWrite_outside hb hv hout] at hexec
  cases hexec
  simp at hresp

/-- Settles O41: the write within the NVRAM leaves byte i in register 0x08 + a + i, which is the one read. -/
theorem nvramReadsBackAsWritten : Obligations.NvramReadsBackAsWritten := by
  intro s addr a bs t i hi hl hc ha hbus hexec hresp
  have hb : s.binding = some ⟨.ds1307, addr⟩ := State.binding_of_ready hl hc ha
  have hfit := nvramFits_of_ok hb rfl hexec hresp
  rw [exec_memWrite_of_ok hb rfl (List.ne_nil_of_length_pos (by omega)) hfit
    (by rw [State.nextEvent_of_no_schedule hbus]; rfl)] at hexec
  obtain rfl := Host.Outcome.next.inj hexec
  obtain ⟨hin, hreg⟩ := toNat_nvramBase_add_ofNat (a := a) (i := i) (by omega)
  set t := (s.afterWrite addr (nvramBase + a) bs).respond (.ok .none)
  have hquiet : t.nextEvent = quietEvent := State.nextEvent_of_no_schedule (by simp [t, hbus])
  have hdev : t.dev.read (nvramBase + (a + BitVec.ofNat 8 i)).toNat = some bs[i] := by
    rw [hreg]
    exact Memory.read_writeBytes_at bs _ _ i hi
  refine ⟨_, exec_memRead_of_ok (s := t) hb rfl hin (by rw [hquiet]; rfl), ?_⟩
  rw [State.answerByte_of_unchanged (by rw [hquiet]; rfl) hdev]
  rfl

/-! ### ALM.READ and ALM.WRITE -/

section Alarm

variable {s : State} {b : Binding}

theorem exec_almRead_elsewhere (hb : s.binding = some b) (hv : b.variant ≠ .pcf8523) :
    exec .almRead s = .next (s.respond (.error .cap)) :=
  run_requireCap_missing (cap := hasAlarmTime) hb (hasAlarmTime_eq_false hv)

/-- R218: `ALM.READ` whose read completes. -/
theorem exec_almRead_of_ok (hb : s.binding = some b) (hv : b.variant = .pcf8523) (h : s.nextEvent.answer = .ok)
    {x : Fin 4 → Byte} (hx : s.answer alarmBase 4 = x) :
    exec .almRead s = .next (((s.afterRead b.addr alarmBase 4).reserve 4).respond
      (.ok (.alarmFields (alarmDecode s.params (s.draws + 4) (x 0) (x 1) (x 2) (x 3))))) := by
  subst hx
  exact (run_requireCap_supported (cap := hasAlarmTime) hb (by rw [hv]; rfl)).trans
    (Cmd.run_bind_done (memRead_ok (by decide) (by decide) h))

/-- R218, R54: `ALM.READ` whose read fails. -/
theorem exec_almRead_of_fail (hb : s.binding = some b) (hv : b.variant = .pcf8523) {e : XErr} {landed : List Bool}
    (h : s.nextEvent.answer = .fail e landed) :
    exec .almRead s = .next ((s.afterFailedRead b.addr alarmBase 4 e).respond (.error (.xport e))) :=
  (run_requireCap_supported (cap := hasAlarmTime) hb (by rw [hv]; rfl)).trans
    (Cmd.run_bind_raised (memRead_fail (by decide) (by decide) h))

theorem exec_almWrite_elsewhere (hb : s.binding = some b) (hv : b.variant ≠ .pcf8523) (al : AlarmFields) :
    exec (.almWrite al) s = .next (s.respond (.error .cap)) :=
  run_requireCap_missing (cap := hasAlarmTime) hb (hasAlarmTime_eq_false hv)

/-- R220: on a PCF8523 `ALM.WRITE` encodes the alarm and writes the alarm block. -/
theorem exec_almWrite_pcf8523 (hb : s.binding = some b) (hv : b.variant = .pcf8523) (al : AlarmFields) :
    exec (.almWrite al) s =
      Cmd.run ((memWrite b.addr alarmBase (alarmEncode s.draws al)).bind fun _ => Cmd.ret .none) (s.reserve 4) :=
  run_requireCap_supported (cap := hasAlarmTime) hb (by rw [hv]; rfl)

/-- R220: `ALM.WRITE` whose write completes. -/
theorem exec_almWrite_of_ok (hb : s.binding = some b) (hv : b.variant = .pcf8523) (al : AlarmFields)
    (h : s.nextEvent.answer = .ok) :
    exec (.almWrite al) s =
      .next (((s.reserve 4).afterWrite b.addr alarmBase (alarmEncode s.draws al)).respond (.ok .none)) := by
  rw [exec_almWrite_pcf8523 hb hv]
  exact run_memWrite_ok (by rw [alarmEncode_length]; decide) (by rw [alarmEncode_length]; decide) h

/-- R122: everything `alarmDecode` gives. -/
theorem alarmDecode_alarmDecodesTo (p : Params) (n : Nat) (x : Fin 4 → Byte) :
    AlarmDecodesTo p n x (alarmDecode p n (x 0) (x 1) (x 2) (x 3)) :=
  ⟨alarmFieldDecode_fieldDecodesTo .., alarmFieldDecode_fieldDecodesTo .., alarmFieldDecode_fieldDecodesTo ..,
    alarmFieldDecode_fieldDecodesTo ..⟩

/-- R123: everything `alarmEncode` gives. -/
theorem alarmEncode_alarmEncodesTo (n : Nat) (al : AlarmFields) : AlarmEncodesTo n al (alarmEncode n al) :=
  ⟨_, _, _, _, rfl, alarmFieldEncode_fieldEncodesTo .., alarmFieldEncode_fieldEncodesTo ..,
    alarmFieldEncode_fieldEncodesTo .., alarmFieldEncode_fieldEncodesTo ..⟩

/-- The byte of each place of an encoded alarm (R123). -/
def alarmBytes (n : Nat) (al : AlarmFields) : Fin 4 → Byte := (alarmEncode n al).get

/-- R127: decoding an encoded alarm, whichever free values the two could have drawn. -/
theorem alarmDecode_alarmBytes (p : Params) (m n : Nat) {al : AlarmFields} (h : alarmOnWire al) :
    alarmDecode p m (alarmBytes n al 0) (alarmBytes n al 1) (alarmBytes n al 2) (alarmBytes n al 3) = al :=
  (AlarmFields.mk.injEq ..).mpr
    ⟨alarmFieldDecode_alarmFieldEncode p _ _ (by decide) fun v hv => h v (.inl hv),
      alarmFieldDecode_alarmFieldEncode p _ _ (by decide) fun v hv => h v (.inr (.inl hv)),
      alarmFieldDecode_alarmFieldEncode p _ _ (by decide) fun v hv => h v (.inr (.inr (.inl hv))),
      alarmFieldDecode_alarmFieldEncode p _ _ (by decide) fun v hv => h v (.inr (.inr (.inr hv)))⟩

end Alarm

/-- Settles O42: the bytes of the block, as `alarmDecode` reads them, or the failure. -/
theorem alarmReadCompletes : Obligations.AlarmReadCompletes := by
  intro s v a hl hc ha
  have hb : s.binding = some ⟨v, a⟩ := State.binding_of_ready hl hc ha
  exact ⟨encodesAs_fields_payload .almRead, exec_almRead_elsewhere hb,
    fun hv h => ⟨_, exec_almRead_of_ok hb hv h rfl, alarmDecode_alarmDecodesTo ..⟩,
    fun hv _ _ => exec_almRead_of_fail hb hv⟩

/-- Settles O43: the bytes `alarmEncode` gives, and each answer of the transport to their write. -/
theorem alarmWriteCompletes : Obligations.AlarmWriteCompletes := by
  intro s v a al hl hc ha
  have hb : s.binding = some ⟨v, a⟩ := State.binding_of_ready hl hc ha
  refine ⟨encodesAs_fields_payload (.almWrite al), fun hv => exec_almWrite_elsewhere hb hv al,
    fun hv => ⟨_, alarmEncode_alarmEncodesTo s.draws al, exec_almWrite_of_ok hb hv al, fun e landed h => ?_⟩⟩
  rw [exec_almWrite_pcf8523 hb hv]
  exact Cmd.run_bind_raised
    (memWrite_fail (by rw [alarmEncode_length]; decide) (by rw [alarmEncode_length]; decide) h)

/-- Settles O44: the read answers the bytes the write left, and they decode to the alarm (R127). -/
theorem alarmReadsBackAsWritten : Obligations.AlarmReadsBackAsWritten := by
  intro s a al hl hc ha hbus hwire
  have hb : s.binding = some ⟨.pcf8523, a⟩ := State.binding_of_ready hl hc ha
  set t := ((s.reserve 4).afterWrite a alarmBase (alarmEncode s.draws al)).respond (.ok .none)
  have hquiet : t.nextEvent = quietEvent := State.nextEvent_of_no_schedule (by simp [t, hbus])
  have hdev (i : Fin 4) : t.dev.read (alarmBase.toNat + i) = some (alarmBytes s.draws al i) :=
    Memory.read_writeBytes_at (alarmEncode s.draws al) _ _ i i.isLt
  have hanswer : t.answer alarmBase 4 = alarmBytes s.draws al :=
    State.answer_of_unchanged (by rw [hquiet]; rfl) hdev
  refine ⟨t, _, exec_almWrite_of_ok hb rfl al (by rw [State.nextEvent_of_no_schedule hbus]; rfl),
    exec_almRead_of_ok (s := t) hb rfl (by rw [hquiet]; rfl) hanswer, ?_⟩
  rw [alarmDecode_alarmBytes _ _ _ hwire]
  rfl

/-! ### RESET -/

section Reset

variable {s : State} {b : Binding}

/-- R168: the software reset is the PCF8523's alone. -/
theorem hasSoftwareReset_eq_false {v : Variant} (hv : v ≠ .pcf8523) : hasSoftwareReset v = false := by
  cases v with
  | ds1307 | ds3231 => rfl
  | pcf8523 => exact absurd rfl hv

/-- R222: on a PCF8523 `RESET` is the write of the pattern and then the initialisation. -/
theorem exec_reset_pcf8523 (hb : s.binding = some b) (hv : b.variant = .pcf8523) :
    exec .reset s =
      Cmd.run ((memWrite b.addr control1 [softwareResetPattern]).bind fun _ =>
        (initControl3 b.addr).bind fun _ => Cmd.ret .none) s :=
  run_requireCap_supported (cap := hasSoftwareReset) hb (by rw [hv]; rfl)

/-- R222: once the pattern is written, what is left of `RESET` is the initialisation. -/
theorem exec_reset_of_written (hb : s.binding = some b) (hv : b.variant = .pcf8523) (h : s.nextEvent.answer = .ok) :
    exec .reset s =
      Cmd.run ((rmwByte b.addr control3 fun x => x &&& 0x1F).bind fun _ => Cmd.ret .none)
        (s.afterWrite b.addr control1 [softwareResetPattern]) := by
  rw [exec_reset_pcf8523 hb hv, initControl3_eq]
  exact Cmd.run_bind_done (memWrite_ok le_rfl (BitVec.isLt control1) h)

end Reset

/-- Settles O45: each answer of the transport to the write of the pattern, then to the initialisation. -/
theorem softwareResetCompletes : Obligations.SoftwareResetCompletes := by
  intro s v a hl hc ha
  have hb : s.binding = some ⟨v, a⟩ := State.binding_of_ready hl hc ha
  refine ⟨encodesAs_fields_payload .reset,
    fun hv => run_requireCap_missing (cap := hasSoftwareReset) hb (hasSoftwareReset_eq_false hv),
    fun hv h hr hw => ?ok, fun hv e landed h => ?write_fails, fun hv e landed h hr => ?init_read_fails,
    fun hv e landed h hr hw => ?init_write_fails⟩
  case ok =>
    rw [exec_reset_of_written hb hv h]
    exact run_rmwByte_ok hr hw
  case write_fails =>
    rw [exec_reset_pcf8523 hb hv]
    exact Cmd.run_bind_raised (memWrite_fail le_rfl (BitVec.isLt control1) h)
  case init_read_fails =>
    rw [exec_reset_of_written hb hv h]
    exact run_rmwByte_read_fails hr
  case init_write_fails =>
    rw [exec_reset_of_written hb hv h]
    exact run_rmwByte_write_fails hr hw

end Sys2Proof.Machine
end

section
/-! PROOFS. How commands end (60_exceptions.md rules R260 to R263). Every command is a run of checks, which leave the
state as it is (`Cmd.IsCheck`), and then of pieces whose only error is `E_XPORT` (`Cmd.PastChecks`); `FREQ.GET` alone
has a check behind its read. `exec_endsIn` holds every well-formed instruction against its row of R262. -/

namespace Sys2Proof.Machine

/-! ### How pieces of a command end -/

/-- R263: what the error `e` of a command that began in `s` leaves in the state `t` the command ended in. -/
def Err.Leaves (s t : State) : Err → Prop
  | .xport _ => True
  | .pattern _ => t.dev = s.dev ∨ t.dev = s.takeEvent.dev
  | .value _ | .range | .cap | .ill | .unbound | .rebind => t = s

/-- An error raised where the command began leaves what it may. -/
theorem Err.leaves_refl (e : Err) (s : State) : e.Leaves s s := by
  cases e with
  | xport => trivial
  | pattern => exact .inl rfl
  | value | range | cap | ill | unbound | rebind => rfl

/-- The outcomes of a check made in `s`, of which an error has one of the status codes `codes`. -/
inductive ChecksIn (codes : List (BitVec 4)) (s : State) {α : Type} : CmdOut α → Prop
  | done (a : α) : ChecksIn codes s (.done a s)
  | raised {e : Err} (hcode : e.code ∈ codes) : ChecksIn codes s (.raised e s)

/-- The outcomes of a piece whose only error is `E_XPORT`, and that only if `codes` has its code. -/
inductive FailsIn (codes : List (BitVec 4)) {α : Type} : CmdOut α → Prop
  | done (a : α) (t : State) : FailsIn codes (.done a t)
  | failed (e : XErr) (t : State) (hcode : 4 ∈ codes) : FailsIn codes (.raised (.xport e) t)
  | stopped (f : Fault) : FailsIn codes (.stopped f)

/-- The outcomes of a command that began in `s`: an error has one of the status codes `codes` and leaves what R263
says. -/
inductive EndsIn (codes : List (BitVec 4)) (s : State) {α : Type} : CmdOut α → Prop
  | done (a : α) (t : State) : EndsIn codes s (.done a t)
  | raised {e : Err} {t : State} (hcode : e.code ∈ codes) (hleaves : e.Leaves s t) : EndsIn codes s (.raised e t)
  | stopped (f : Fault) : EndsIn codes s (.stopped f)

/-- R261: the piece `c` decides without a transaction whether the command goes on. -/
def Cmd.IsCheck (codes : List (BitVec 4)) {α : Type} (c : Cmd α) : Prop := ∀ s, ChecksIn codes s (c s)

/-- R263: the piece `c` may stand behind the checks of a command. -/
def Cmd.PastChecks (codes : List (BitVec 4)) {α : Type} (c : Cmd α) : Prop := ∀ s, FailsIn codes (c s)

/-- R262, R263: every error of the command `c` has one of the status codes `codes` and leaves what it may. -/
def Cmd.EndsIn (codes : List (BitVec 4)) {α : Type} (c : Cmd α) : Prop := ∀ s, Machine.EndsIn codes s (c s)

section Sequencing

variable {codes : List (BitVec 4)} {α β : Type} {c : Cmd α} {k : α → Cmd β}

theorem Cmd.IsCheck.ret (a : α) : Cmd.IsCheck codes (Cmd.ret a) := fun _ => .done a

theorem Cmd.IsCheck.raise {e : Err} (h : e.code ∈ codes) : Cmd.IsCheck codes (Cmd.raise (α := α) e) :=
  fun _ => .raised h

theorem Cmd.PastChecks.ret (a : α) : Cmd.PastChecks codes (Cmd.ret a) := fun s => .done a s

theorem Cmd.PastChecks.bind (hc : Cmd.PastChecks codes c) (hk : ∀ a, Cmd.PastChecks codes (k a)) :
    Cmd.PastChecks codes (c.bind k) := by
  intro s
  have hfirst := hc s
  unfold Cmd.bind
  generalize c s = out at hfirst
  cases hfirst with
  | done a t => exact hk a t
  | failed e t hcode => exact .failed e t hcode
  | stopped f => exact .stopped f

theorem Cmd.PastChecks.endsIn (hc : Cmd.PastChecks codes c) : Cmd.EndsIn codes c := by
  intro s
  have hout := hc s
  generalize c s = out at hout
  cases hout with
  | done a t => exact .done a t
  | failed e t hcode => exact .raised hcode trivial
  | stopped f => exact .stopped f

/-- R261: what comes after a check begins where the check did. -/
theorem Cmd.IsCheck.bind_endsIn (hc : Cmd.IsCheck codes c) (hk : ∀ a, Cmd.EndsIn codes (k a)) :
    Cmd.EndsIn codes (c.bind k) := by
  intro s
  have hfirst := hc s
  unfold Cmd.bind
  generalize c s = out at hfirst
  cases hfirst with
  | done a => exact hk a s
  | raised hcode => exact .raised hcode (Err.leaves_refl _ s)

end Sequencing

/-! ### The checks -/

section Checks

variable {codes : List (BitVec 4)}

theorem readParams_isCheck : Cmd.IsCheck codes readParams := fun s => .done s.params

theorem requireBinding_isCheck (h : 7 ∈ codes) : Cmd.IsCheck codes requireBinding := by
  intro s
  rcases hb : s.binding with _ | b
  · rw [requireBinding_unbound hb]
    exact .raised h
  · rw [requireBinding_bound hb]
    exact .done b

theorem requireUnbound_isCheck (h : 8 ∈ codes) : Cmd.IsCheck codes requireUnbound := by
  intro s
  rcases hl : s.life with _ | _
  · rw [requireUnbound_unbound hl]
    exact .done ()
  · rw [requireUnbound_ready hl]
    exact .raised h

theorem requireCap_isCheck (b : Bool) (h : 3 ∈ codes := by simp [allowedStatuses]) :
    Cmd.IsCheck codes (requireCap b) := by
  cases b
  · exact .raise h
  · exact .ret ()

theorem requireRange_isCheck (b : Bool) (h : 2 ∈ codes := by simp [allowedStatuses]) :
    Cmd.IsCheck codes (requireRange b) := by
  cases b
  · exact .raise h
  · exact .ret ()

theorem resolve_isCheck (v : Variant) (acc : Accessor) (h : 3 ∈ codes := by simp [allowedStatuses]) :
    Cmd.IsCheck codes (resolve v acc) := by
  intro s
  rcases resolve_cases v acc s with ⟨e, hs, -⟩ | ⟨hs, -⟩ <;> rw [hs]
  · exact .done e
  · exact .raised h

theorem requireWritable_isCheck (e : MapEntry) (h : 3 ∈ codes := by simp [allowedStatuses]) :
    Cmd.IsCheck codes (requireWritable e) := by
  unfold requireWritable
  split
  · exact .ret ()
  · exact .raise h

theorem requireFreq_isCheck (T : FreqTable) (hz : INT32) (h : 1 ∈ codes := by simp [allowedStatuses]) :
    Cmd.IsCheck codes (requireFreq T hz) := by
  unfold requireFreq
  split
  · exact .ret _
  · exact .raise h

theorem decodeFreq_isCheck (T : FreqTable) (x : Byte) (h : 5 ∈ codes := by simp [allowedStatuses]) :
    Cmd.IsCheck codes (decodeFreq T x) := by
  unfold decodeFreq
  split
  · exact .ret _
  · exact .raise h

end Checks

/-! ### The pieces behind the checks -/

section PastChecks

variable {codes : List (BitVec 4)}

theorem drawIndex_pastChecks (k : Nat) : Cmd.PastChecks codes (drawIndex k) := fun _ => .done _ _

theorem decodeDateTime_pastChecks {b0 b1 b2 b3 b4 b5 b6 : Byte} :
    Cmd.PastChecks codes (decodeDateTime b0 b1 b2 b3 b4 b5 b6) := fun _ => .done _ _

theorem encodeDateTime_pastChecks (dt : DateTime) : Cmd.PastChecks codes (encodeDateTime dt) := fun _ => .done _ _

theorem decodeAlarm_pastChecks {b0 b1 b2 b3 : Byte} : Cmd.PastChecks codes (decodeAlarm b0 b1 b2 b3) :=
  fun _ => .done _ _

theorem encodeAlarm_pastChecks (al : AlarmFields) : Cmd.PastChecks codes (encodeAlarm al) := fun _ => .done _ _

theorem commitBinding_pastChecks (v : Variant) (a : DevAddr) : Cmd.PastChecks codes (commitBinding v a) :=
  fun _ => .done _ _

theorem memRead_pastChecks (a : DevAddr) (reg : RegNum) (n : Nat) (h : 4 ∈ codes := by simp [allowedStatuses]) :
    Cmd.PastChecks codes (memRead a reg n) := by
  intro s
  by_cases hin : 1 ≤ n ∧ reg.toNat + n ≤ 256
  · obtain ⟨hn, hr⟩ := hin
    rcases memRead_cases (a := a) (s := s) hn hr with ⟨hs, -⟩ | ⟨e, landed, hs, -⟩ | ⟨hs, -⟩ <;> rw [hs]
    · exact .done _ _
    · exact .failed _ _ h
    · exact .stopped _
  · rw [memRead_outside hin]
    exact .stopped _

theorem memWrite_pastChecks (a : DevAddr) (reg : RegNum) (bs : List Byte)
    (h : 4 ∈ codes := by simp [allowedStatuses]) : Cmd.PastChecks codes (memWrite a reg bs) := by
  intro s
  by_cases hin : 1 ≤ bs.length ∧ reg.toNat + bs.length ≤ 256
  · obtain ⟨hn, hr⟩ := hin
    rcases memWrite_cases (a := a) (s := s) hn hr with ⟨hs, -⟩ | ⟨e, landed, hs, -⟩ | ⟨hs, -⟩ <;> rw [hs]
    · exact .done _ _
    · exact .failed _ _ h
    · exact .stopped _
  · rw [memWrite_outside hin]
    exact .stopped _

theorem readByte_pastChecks (a : DevAddr) (reg : RegNum) (h : 4 ∈ codes := by simp [allowedStatuses]) :
    Cmd.PastChecks codes (readByte a reg) :=
  (memRead_pastChecks a reg 1 h).bind fun _ => .ret _

theorem rmwByte_pastChecks (a : DevAddr) (reg : RegNum) (f : Byte → Byte)
    (h : 4 ∈ codes := by simp [allowedStatuses]) : Cmd.PastChecks codes (rmwByte a reg f) := by
  intro s
  rcases rmwByte_cases a reg f s with ⟨hs, -⟩ | ⟨e, landed, hs, -⟩ | ⟨e, landed, hs, -⟩ | ⟨hs, -⟩ <;> rw [hs]
  · exact .done _ _
  · exact .failed _ _ h
  · exact .failed _ _ h
  · exact .stopped _

/-- R200, R262: only the PCF8523's initialisation can fail. -/
theorem constructionInit_pastChecks (v : Variant) (a : DevAddr) :
    Cmd.PastChecks (allowedStatuses (.bind v a)) (constructionInit v a) := by
  cases v with
  | ds1307 | ds3231 => exact .ret ()
  | pcf8523 => exact rmwByte_pastChecks a control3 _

theorem dateTimePreStep_pastChecks (b : Binding) (h : 4 ∈ codes := by simp [allowedStatuses]) :
    Cmd.PastChecks codes (dateTimePreStep b) := by
  unfold dateTimePreStep
  split
  · exact .ret ()
  · exact rmwByte_pastChecks _ _ _ h
  · exact rmwByte_pastChecks _ _ _ h

theorem writeFreq_pastChecks (b : Binding) (T : FreqTable) (pat : Byte)
    (h : 4 ∈ codes := by simp [allowedStatuses]) : Cmd.PastChecks codes (writeFreq b T pat) := by
  unfold writeFreq
  split
  · exact memWrite_pastChecks _ _ _ h
  · exact rmwByte_pastChecks _ _ _ h

/-- R216: an empty `MEM.WRITE` has no transaction. -/
theorem memWriteBytes_pastChecks (a : DevAddr) (reg : RegNum) (bs : List Byte)
    (h : 4 ∈ codes := by simp [allowedStatuses]) :
    Cmd.PastChecks codes (if bs.isEmpty then Cmd.ret () else memWrite a reg bs) := by
  split
  · exact .ret ()
  · exact memWrite_pastChecks a reg bs h

/-- R210, R263: the one check behind a transaction. `E_PATTERN` follows the read, and leaves the device as the
environment made it before the read. -/
theorem frequencyRead_endsIn (T : FreqTable) (a : DevAddr) (reg : RegNum) (hxport : 4 ∈ codes)
    (hpattern : 5 ∈ codes) :
    Cmd.EndsIn codes ((readByte a reg).bind fun x => (decodeFreq T x).bind fun k => Cmd.ret (Value.int32 k)) := by
  intro s
  rcases readByte_cases a reg s with ⟨hs, -⟩ | ⟨e, landed, hs, -⟩ | ⟨hs, -⟩
  · rw [Cmd.bind_done hs, decodeFreq]
    split
    · exact .done _ _
    · exact .raised hpattern (.inr rfl)
  · rw [Cmd.bind_raised hs]
    exact .raised hxport trivial
  · rw [Cmd.bind_stopped hs]
    exact .stopped _

end PastChecks

/-! ### Every instruction ends by its row -/

/-- The instruction `i` runs a command whose errors have the status codes of its row and leave what they may. -/
def ExecEndsIn (i : Instr) : Prop := ∃ c, (∀ s, exec i s = Cmd.run c s) ∧ Cmd.EndsIn (allowedStatuses i) c

/-- R24, R261: a bus command but `BIND` begins with the check of the binding. -/
theorem ExecEndsIn.bound {i : Instr} (k : Binding → Cmd Value)
    (he : ∀ s, exec i s = Cmd.run (requireBinding.bind k) s) (hk : ∀ b, Cmd.EndsIn (allowedStatuses i) (k b))
    (h : 7 ∈ allowedStatuses i := by simp [allowedStatuses]) : ExecEndsIn i :=
  ⟨_, he, (requireBinding_isCheck h).bind_endsIn hk⟩

/-- R120: a well-formed `DT.DEC` has its seven bytes. -/
theorem execEndsIn_dtDec {bs : List Byte} (hlen : bs.length = 7) : ExecEndsIn (.dtDec bs) :=
  match bs, hlen with
  | [_, _, _, _, _, _, _], _ =>
    ⟨_, fun _ => rfl, (decodeDateTime_pastChecks.bind fun _ => .ret _).endsIn⟩

/-- R122: a well-formed `ALM.DEC` has its four bytes. -/
theorem execEndsIn_almDec (chip : Variant) {bs : List Byte} (hlen : bs.length = 4) : ExecEndsIn (.almDec chip bs) :=
  match bs, hlen with
  | [_, _, _, _], _ =>
    ⟨_, fun _ => rfl, (requireCap_isCheck _).bind_endsIn fun _ =>
      (decodeAlarm_pastChecks.bind fun _ => .ret _).endsIn⟩

/-- R262: every well-formed instruction ends by its row. -/
theorem exec_endsIn {i : Instr} (hwf : i.wf = true) : ExecEndsIn i := by
  cases i with
  | bcdDec b =>
    exact ⟨_, fun s => Eq.refl (execBcdDec b s), readParams_isCheck.bind_endsIn fun _ =>
      ((drawIndex_pastChecks _).bind fun _ => .ret _).endsIn⟩
  | bcdEnc v =>
    exact ⟨_, fun s => Eq.refl (execBcdEnc v s), ((drawIndex_pastChecks _).bind fun _ => .ret _).endsIn⟩
  | flagTest b m => exact ⟨_, fun _ => rfl, (Cmd.PastChecks.ret _).endsIn⟩
  | flagMerge b m v => exact ⟨_, fun _ => rfl, (Cmd.PastChecks.ret _).endsIn⟩
  | dtDec bs => exact execEndsIn_dtDec (by simpa [Instr.wf] using hwf)
  | dtEnc dt => exact ⟨_, fun _ => rfl, ((encodeDateTime_pastChecks dt).bind fun _ => .ret _).endsIn⟩
  | almDec chip bs => exact execEndsIn_almDec chip (by simpa [Instr.wf] using hwf)
  | almEnc chip al =>
    exact ⟨_, fun _ => rfl, (requireCap_isCheck _).bind_endsIn fun _ =>
      ((encodeAlarm_pastChecks al).bind fun _ => .ret _).endsIn⟩
  | freqDec chip r =>
    exact ⟨_, fun _ => rfl, readParams_isCheck.bind_endsIn fun _ =>
      (decodeFreq_isCheck _ r).bind_endsIn fun _ => (Cmd.PastChecks.ret _).endsIn⟩
  | freqEnc chip r hz =>
    exact ⟨_, fun _ => rfl, readParams_isCheck.bind_endsIn fun _ =>
      (requireFreq_isCheck _ hz).bind_endsIn fun _ => (Cmd.PastChecks.ret _).endsIn⟩
  | map chip acc =>
    exact ⟨_, fun _ => rfl, (resolve_isCheck chip acc).bind_endsIn fun _ => (Cmd.PastChecks.ret _).endsIn⟩
  | bind chip a =>
    have hrebind : 8 ∈ allowedStatuses (.bind chip a) := by cases chip <;> simp [allowedStatuses]
    exact ⟨_, fun _ => rfl, (requireUnbound_isCheck hrebind).bind_endsIn fun _ =>
      ((constructionInit_pastChecks chip a).bind fun _ =>
        (commitBinding_pastChecks chip a).bind fun _ => .ret _).endsIn⟩
  | dtRead =>
    exact .bound _ (fun _ => rfl) fun b =>
      ((memRead_pastChecks _ _ _).bind fun _ => decodeDateTime_pastChecks.bind fun _ => .ret _).endsIn
  | dtWrite dt =>
    exact .bound _ (fun _ => rfl) fun b =>
      ((encodeDateTime_pastChecks dt).bind fun _ => (dateTimePreStep_pastChecks b).bind fun _ =>
        (memWrite_pastChecks _ _ _).bind fun _ => .ret _).endsIn
  | flagGet acc =>
    exact .bound _ (fun _ => rfl) fun b => (resolve_isCheck b.variant acc).bind_endsIn fun e =>
      ((readByte_pastChecks b.addr e.reg).bind fun _ => .ret _).endsIn
  | flagSet acc v =>
    exact .bound _ (fun _ => rfl) fun b => (resolve_isCheck b.variant acc).bind_endsIn fun e =>
      (requireWritable_isCheck e).bind_endsIn fun _ =>
        ((rmwByte_pastChecks b.addr e.reg _).bind fun _ => .ret _).endsIn
  | freqGet =>
    exact .bound _ (fun _ => rfl) fun b => readParams_isCheck.bind_endsIn fun p =>
      frequencyRead_endsIn (freqTable p b.variant) b.addr _ (by decide) (by decide)
  | freqSet hz =>
    exact .bound _ (fun _ => rfl) fun b => readParams_isCheck.bind_endsIn fun p =>
      (requireFreq_isCheck _ hz).bind_endsIn fun pat =>
        ((writeFreq_pastChecks b _ pat).bind fun _ => .ret _).endsIn
  | memRead a =>
    exact .bound _ (fun _ => rfl) fun b => (requireCap_isCheck _).bind_endsIn fun _ =>
      (requireRange_isCheck _).bind_endsIn fun _ => ((readByte_pastChecks b.addr _).bind fun _ => .ret _).endsIn
  | memWrite a bs =>
    exact .bound _ (fun _ => rfl) fun b => (requireCap_isCheck _).bind_endsIn fun _ =>
      (requireRange_isCheck _).bind_endsIn fun _ =>
        ((memWriteBytes_pastChecks b.addr _ bs).bind fun _ => .ret _).endsIn
  | almRead =>
    exact .bound _ (fun _ => rfl) fun b => (requireCap_isCheck _).bind_endsIn fun _ =>
      ((memRead_pastChecks _ _ _).bind fun _ => decodeAlarm_pastChecks.bind fun _ => .ret _).endsIn
  | almWrite al =>
    exact .bound _ (fun _ => rfl) fun b => (requireCap_isCheck _).bind_endsIn fun _ =>
      ((encodeAlarm_pastChecks al).bind fun _ => (memWrite_pastChecks _ _ _).bind fun _ => .ret _).endsIn
  | reset =>
    exact .bound _ (fun _ => rfl) fun b => (requireCap_isCheck _).bind_endsIn fun _ =>
      ((memWrite_pastChecks _ _ _).bind fun _ => (rmwByte_pastChecks b.addr control3 _).bind fun _ => .ret _).endsIn
  | rflagGet r m =>
    exact .bound _ (fun _ => rfl) fun b => ((readByte_pastChecks b.addr r).bind fun _ => .ret _).endsIn
  | rflagSet r m v =>
    exact .bound _ (fun _ => rfl) fun b => ((rmwByte_pastChecks b.addr r _).bind fun _ => .ret _).endsIn

/-- R86: what is no command ends with `E_ILL` (log entry 12). -/
theorem exec_of_not_wf {i : Instr} (hwf : i.wf = false) (s : State) :
    exec i s = .next (s.respond (.error .ill)) := by
  cases i with
  | dtDec bs =>
    change execDtDec bs s = _
    unfold execDtDec
    split
    · cases hwf
    · rfl
  | almDec chip bs =>
    change execAlmDec chip bs s = _
    unfold execAlmDec
    split
    · cases hwf
    · rfl
  | _ => cases hwf

/-- R262: every row allows `OK`. -/
theorem ok_mem_allowedStatuses (i : Instr) : 0 ∈ allowedStatuses i := by
  unfold allowedStatuses
  split <;> exact List.mem_cons_self

/-! ### Commands that end with an error -/

section Errors

variable {i : Instr} {s t : State} {e : Err}

/-- A command gives one response. -/
theorem exec_responds (h : exec i s = .next t) : ∃ r, t.responses = s.responses ++ [r] := by
  obtain ⟨_, u, r, rfl, hi, -, -⟩ := exec_next_issues h
  exact ⟨r, by rw [State.respond_responses, hi.responses]⟩

/-- A command whose last response is an error raised it. -/
theorem Cmd.run_next_error {c : Cmd Value} {rs : List Response} (h : Cmd.run c s = .next t)
    (hr : t.responses = rs ++ [.error e]) : ∃ u, c s = .raised e u ∧ t = u.respond (.error e) := by
  rcases Cmd.run_next h with ⟨v, u, -, rfl⟩ | ⟨e', u, hs, rfl⟩
  · cases (List.append_inj' hr rfl).2
  · cases (List.append_inj' hr rfl).2
    exact ⟨u, hs, rfl⟩

/-- R262, R263: a well-formed instruction that ends with an error. -/
theorem exec_error (hwf : i.wf = true) (h : exec i s = .next t) (hr : t.responses = s.responses ++ [.error e]) :
    e.code ∈ allowedStatuses i ∧ ∃ u, t = u.respond (.error e) ∧ e.Leaves s u := by
  obtain ⟨c, he, hc⟩ := exec_endsIn hwf
  obtain ⟨u, hs, ht⟩ := Cmd.run_next_error (he s ▸ h) hr
  have hends := hc s
  rw [hs] at hends
  cases hends with
  | raised hcode hleaves => exact ⟨hcode, u, ht, hleaves⟩

/-- R263: the same holds of what an error leaves where the instruction is no command. -/
theorem exec_error_leaves (h : exec i s = .next t) (hr : t.responses = s.responses ++ [.error e]) :
    ∃ u, t = u.respond (.error e) ∧ e.Leaves s u := by
  rcases hwf : i.wf with _ | _
  · rw [exec_of_not_wf hwf] at h
    cases h
    cases (List.append_inj' hr rfl).2
    exact ⟨s, rfl, Err.leaves_refl _ s⟩
  · exact (exec_error hwf h hr).2

/-- R200, R263: no command that ends with an error changes BCDC's own registers. -/
theorem exec_error_frame (h : exec i s = .next t) (hr : t.responses = s.responses ++ [.error e]) :
    t.life = s.life ∧ t.chip = s.chip ∧ t.devAddr = s.devAddr ∧ t.params = s.params := by
  rcases onlySuccessfulBindWritesTheBinding i s t h with ⟨hlife, hchip, haddr⟩ | ⟨v, a, -, -, -, -, -, hok⟩
  · exact ⟨hlife, hchip, haddr, exec_params h⟩
  · cases (List.append_inj' (hr.symm.trans hok) rfl).2

end Errors

/-! ### The statements -/

/-- Settles O48: the response is `OK`, which every row allows, or an error of the instruction's row. -/
theorem everyCommandEndsWithAnAllowedStatus : Obligations.EveryCommandEndsWithAnAllowedStatus := by
  intro i s t hwf h
  obtain ⟨r, hr⟩ := exec_responds h
  refine ⟨r, hr, ?_⟩
  cases r with
  | ok v => exact ok_mem_allowedStatuses i
  | error e => exact (exec_error hwf h hr).1

/-- Settles O49: by the error, whose code says which it is. -/
theorem errorsLeaveTheirEffectsOnly : Obligations.ErrorsLeaveTheirEffectsOnly := by
  intro i s t e h hr
  obtain ⟨hlife, hchip, haddr, hparams⟩ := exec_error_frame h hr
  obtain ⟨u, rfl, hleaves⟩ := exec_error_leaves h hr
  refine ⟨fun hcode => ?before_bus, fun _ => ⟨hlife, hchip, haddr, hparams⟩,
    fun hcode => ⟨hlife, hchip, haddr, hparams, ?pattern⟩⟩
  case before_bus =>
    cases e with
    | value | range | cap | ill | unbound | rebind => exact congrArg (State.respond · _) hleaves
    | xport | pattern => exact absurd hcode (by simp [Err.code])
  case pattern =>
    cases e with
    | pattern => exact hleaves
    | value | range | cap | xport | ill | unbound | rebind => exact absurd hcode (by simp [Err.code])

end Sys2Proof.Machine
end

section
/-! PROOFS. Reset and fairness (70_reset_and_hazards.md rules R290 and R305). Every transaction a command issues is of
registers that exist, so the one thing that can stop a piece of a command is a transaction of its schedule that is
never answered (`Cmd.StopsOnlyUnanswered`). Pieces without transactions have the property by their make-up
(`Cmd.MadeOf.stopsOnlyUnanswered`), each kind of transaction has it where its run of registers exists, and sequencing
keeps it, because what is left of a schedule is part of it. -/

namespace Sys2Proof.Machine

/-! ### The block's reset input -/

/-- Settles O6: the step is the block's reset, which writes these four registers. -/
theorem blockResetClearsOnlyTheBinding : Obligations.BlockResetClearsOnlyTheBinding := by
  intro s rest h
  rw [step_of_reset h]
  rfl

/-! ### What can stop a piece of a command -/

/-- The schedule of `s` has a transaction that is never answered. -/
def State.HasUnanswered (s : State) : Prop := ∃ e ∈ s.bus, e.answer = .never

theorem State.HasUnanswered.of_subset {s t : State} (h : t.HasUnanswered) (hbus : t.bus ⊆ s.bus) : s.HasUnanswered :=
  let ⟨e, he, hnever⟩ := h
  ⟨e, hbus he, hnever⟩

/-- Beyond the schedule every transaction is answered, so one that is not stands in it. -/
theorem State.hasUnanswered_of_nextEvent {s : State} (h : s.nextEvent.answer = .never) : s.HasUnanswered := by
  rcases hb : s.bus with _ | ⟨e, rest⟩
  · rw [State.nextEvent_of_no_schedule hb] at h
    cases h
  · exact ⟨e, by simp [hb], by simpa [State.nextEvent, hb] using h⟩

/-- The outcomes of a piece that starts in `s` and is stopped by nothing but a transaction of the schedule that is
never answered (R305). One that goes on leaves part of the schedule. -/
inductive StopsUnanswered (s : State) {α : Type} : CmdOut α → Prop
  | done (a : α) {t : State} (hbus : t.bus ⊆ s.bus) : StopsUnanswered s (.done a t)
  | raised (e : Err) (t : State) : StopsUnanswered s (.raised e t)
  | stopped (h : s.HasUnanswered) : StopsUnanswered s (.stopped .transportNeverAnswers)

/-- R305: only a transaction that is never answered stops the piece `c`. -/
def Cmd.StopsOnlyUnanswered {α : Type} (c : Cmd α) : Prop := ∀ s, StopsUnanswered s (c s)

section Sequencing

variable {α β : Type}

theorem Cmd.StopsOnlyUnanswered.ret (a : α) : Cmd.StopsOnlyUnanswered (Cmd.ret a) :=
  fun s => .done a (List.Subset.refl s.bus)

theorem Cmd.StopsOnlyUnanswered.raise (e : Err) : Cmd.StopsOnlyUnanswered (Cmd.raise (α := α) e) :=
  fun s => .raised e s

/-- The second piece is stopped by what the first left of the schedule. -/
theorem Cmd.StopsOnlyUnanswered.bind {c : Cmd α} {k : α → Cmd β} (hc : Cmd.StopsOnlyUnanswered c)
    (hk : ∀ a, Cmd.StopsOnlyUnanswered (k a)) : Cmd.StopsOnlyUnanswered (c.bind k) := by
  intro s
  have hfirst := hc s
  unfold Cmd.bind
  generalize c s = out at hfirst
  cases hfirst with
  | @done a t hbus =>
    have hrest := hk a t
    show StopsUnanswered s (k a t)
    generalize k a t = out at hrest
    cases hrest with
    | done b hbus' => exact .done b (List.Subset.trans hbus' hbus)
    | raised e u => exact .raised e u
    | stopped h => exact .stopped (h.of_subset hbus)
  | raised e t => exact .raised e t
  | stopped h => exact .stopped h

/-- A piece without a target issues no transaction that could go unanswered. -/
theorem Cmd.MadeOf.stopsOnlyUnanswered {o : Option DevAddr} {c : Cmd α} (h : Cmd.MadeOf o c) (ho : o = none) :
    Cmd.StopsOnlyUnanswered c := by
  induction h with
  | ret a => exact .ret a
  | raise e => exact .raise e
  | drawIndex k => exact fun s => .done _ (List.Subset.refl s.bus)
  | readParams => exact fun s => .done _ (List.Subset.refl s.bus)
  | memRead | memWrite | rmwByte => cases ho
  | bind _ _ hc hk => exact (hc ho).bind fun a => hk a ho

/-- A check or a draw comes first. -/
theorem Cmd.StopsOnlyUnanswered.of_quiet_first {c : Cmd α} {k : α → Cmd β} (hc : Cmd.MadeOf none c)
    (hk : ∀ a, Cmd.StopsOnlyUnanswered (k a)) : Cmd.StopsOnlyUnanswered (c.bind k) :=
  (hc.stopsOnlyUnanswered rfl).bind hk

/-- The rest issues no transaction. -/
theorem Cmd.StopsOnlyUnanswered.of_quiet_rest {c : Cmd α} {k : α → Cmd β} (hc : Cmd.StopsOnlyUnanswered c)
    (hk : ∀ a, Cmd.MadeOf none (k a)) : Cmd.StopsOnlyUnanswered (c.bind k) :=
  hc.bind fun a => (hk a).stopsOnlyUnanswered rfl

end Sequencing

/-! ### The transactions -/

theorem memRead_stopsOnlyUnanswered (a : DevAddr) {reg : RegNum} {n : Nat} (hn : 1 ≤ n) (hr : reg.toNat + n ≤ 256) :
    Cmd.StopsOnlyUnanswered (memRead a reg n) := by
  intro s
  rcases memRead_cases (a := a) (s := s) hn hr with ⟨hs, -⟩ | ⟨e, landed, hs, -⟩ | ⟨hs, hnever⟩ <;> rw [hs]
  · exact .done _ (List.tail_subset s.bus)
  · exact .raised _ _
  · exact .stopped (State.hasUnanswered_of_nextEvent hnever)

theorem memWrite_stopsOnlyUnanswered (a : DevAddr) {reg : RegNum} {bs : List Byte} (hn : 1 ≤ bs.length)
    (hr : reg.toNat + bs.length ≤ 256) : Cmd.StopsOnlyUnanswered (memWrite a reg bs) := by
  intro s
  rcases memWrite_cases (a := a) (s := s) hn hr with ⟨hs, -⟩ | ⟨e, landed, hs, -⟩ | ⟨hs, hnever⟩ <;> rw [hs]
  · exact .done _ (List.tail_subset s.bus)
  · exact .raised _ _
  · exact .stopped (State.hasUnanswered_of_nextEvent hnever)

/-- R50: every register number is a register, so a write of one byte is always within the registers. -/
theorem memWrite_singleton_stopsOnlyUnanswered (a : DevAddr) (reg : RegNum) (x : Byte) :
    Cmd.StopsOnlyUnanswered (memWrite a reg [x]) :=
  memWrite_stopsOnlyUnanswered a (Nat.le_refl 1) reg.isLt

theorem readByte_stopsOnlyUnanswered (a : DevAddr) (reg : RegNum) : Cmd.StopsOnlyUnanswered (readByte a reg) :=
  .of_quiet_rest (memRead_stopsOnlyUnanswered a (Nat.le_refl 1) reg.isLt) fun _ => .ret _

theorem rmwByte_stopsOnlyUnanswered (a : DevAddr) (reg : RegNum) (f : Byte → Byte) :
    Cmd.StopsOnlyUnanswered (rmwByte a reg f) := by
  intro s
  rcases rmwByte_cases a reg f s with ⟨hs, -⟩ | ⟨e, landed, hs, -⟩ | ⟨e, landed, hs, -⟩ | ⟨hs, hnever⟩ <;> rw [hs]
  · exact .done _ (List.Subset.trans (List.tail_subset s.bus.tail) (List.tail_subset s.bus))
  · exact .raised _ _
  · exact .raised _ _
  · rcases hnever with hread | hwrite
    · exact .stopped (State.hasUnanswered_of_nextEvent hread)
    · exact .stopped ((State.hasUnanswered_of_nextEvent hwrite).of_subset (List.tail_subset s.bus))

/-! ### The pieces with transactions -/

/-- R200: the initialisation is at most one read-modify-write. -/
theorem constructionInit_stopsOnlyUnanswered (v : Variant) (a : DevAddr) :
    Cmd.StopsOnlyUnanswered (constructionInit v a) := by
  cases v with
  | ds1307 | ds3231 => exact .ret ()
  | pcf8523 => exact rmwByte_stopsOnlyUnanswered a control3 _

/-- R203: the pre-step is at most one read-modify-write. -/
theorem dateTimePreStep_stopsOnlyUnanswered (b : Binding) : Cmd.StopsOnlyUnanswered (dateTimePreStep b) := by
  unfold dateTimePreStep
  split
  · exact .ret ()
  · exact rmwByte_stopsOnlyUnanswered _ _ _
  · exact rmwByte_stopsOnlyUnanswered _ _ _

theorem writeFreq_stopsOnlyUnanswered (b : Binding) (T : FreqTable) (pat : Byte) :
    Cmd.StopsOnlyUnanswered (writeFreq b T pat) := by
  unfold writeFreq
  split
  · exact memWrite_singleton_stopsOnlyUnanswered _ _ _
  · exact rmwByte_stopsOnlyUnanswered _ _ _

/-- R161: the date/time block lies within the registers. -/
theorem dateTimeBase_add_le (v : Variant) : (dateTimeBase v).toNat + 7 ≤ 256 := by
  cases v <;> decide

/-- R121: what follows gets the seven bytes of the block. -/
theorem Cmd.StopsOnlyUnanswered.encodeDateTime_bind {β : Type} {k : List Byte → Cmd β} (dt : DateTime)
    (hk : ∀ bs, bs.length = 7 → Cmd.StopsOnlyUnanswered (k bs)) :
    Cmd.StopsOnlyUnanswered ((encodeDateTime dt).bind k) :=
  fun s => Cmd.StopsOnlyUnanswered.of_quiet_first (.drawIndex dateTimeEncodeDraws)
    (fun n => hk (dateTimeEncode n dt) (dateTimeEncode_length n dt)) s

/-- R123: what follows gets the four bytes of the block. -/
theorem Cmd.StopsOnlyUnanswered.encodeAlarm_bind {β : Type} {k : List Byte → Cmd β} (al : AlarmFields)
    (hk : ∀ bs, bs.length = 4 → Cmd.StopsOnlyUnanswered (k bs)) :
    Cmd.StopsOnlyUnanswered ((encodeAlarm al).bind k) :=
  fun s => Cmd.StopsOnlyUnanswered.of_quiet_first (.drawIndex alarmDraws)
    (fun n => hk (alarmEncode n al) (alarmEncode_length n al)) s

/-- R161: a write of seven bytes from the date/time base. -/
theorem memWrite_dateTime_stopsOnlyUnanswered (b : Binding) {bs : List Byte} (hlen : bs.length = 7) :
    Cmd.StopsOnlyUnanswered (memWrite b.addr (dateTimeBase b.variant) bs) :=
  memWrite_stopsOnlyUnanswered b.addr (by omega) (hlen ▸ dateTimeBase_add_le b.variant)

/-- R125: a write of four bytes from the alarm base. -/
theorem memWrite_alarm_stopsOnlyUnanswered (a : DevAddr) {bs : List Byte} (hlen : bs.length = 4) :
    Cmd.StopsOnlyUnanswered (memWrite a alarmBase bs) :=
  memWrite_stopsOnlyUnanswered a (by omega) (by rw [hlen]; decide)

/-- R215, R216: behind the check of the range `MEM.WRITE` writes nothing or bytes within the NVRAM. -/
theorem memWriteInRange_stopsOnlyUnanswered (d : DevAddr) (a : Byte) (bs : List Byte) :
    Cmd.StopsOnlyUnanswered ((requireRange (nvramFits a bs.length)).bind fun _ =>
      (if bs.isEmpty then Cmd.ret () else memWrite d (nvramBase + a) bs).bind fun _ => Cmd.ret Value.none) := by
  rcases hfit : nvramFits a bs.length with _ | _
  · exact fun s => .raised .range s
  · obtain ⟨haddr, hend⟩ := (nvramFits_iff a bs.length).1 hfit
    refine .of_quiet_first (requireRange_madeOf true) fun _ => .of_quiet_rest ?_ fun _ => .ret _
    cases bs with
    | nil => exact .ret ()
    | cons x xs =>
      refine memWrite_stopsOnlyUnanswered d (Nat.le_add_left 1 xs.length) ?_
      rw [toNat_nvramBase_add haddr]
      omega

/-! ### Every instruction -/

/-- R305: the instruction `i` runs a command that only a transaction that is never answered stops. -/
def ExecStopsOnlyUnanswered (i : Instr) : Prop := ∃ c, (∀ s, exec i s = Cmd.run c s) ∧ Cmd.StopsOnlyUnanswered c

/-- R83: a pure command issues no transaction. -/
theorem ExecStopsOnlyUnanswered.pure {i : Instr} (h : isBusCommand i = false) : ExecStopsOnlyUnanswered i := by
  cases exec_meaning i with
  | pure c _ hc he => exact ⟨c, he, hc.stopsOnlyUnanswered rfl⟩
  | bound _ hi => simp [isBusCommand_of_needsBinding hi] at h
  | bind v a hi =>
    subst hi
    cases h

/-- R261 check 3: the check of the binding issues no transaction. -/
theorem ExecStopsOnlyUnanswered.bound {i : Instr} (k : Binding → Cmd Value)
    (he : ∀ s, exec i s = Cmd.run (requireBinding.bind k) s) (hk : ∀ b, Cmd.StopsOnlyUnanswered (k b)) :
    ExecStopsOnlyUnanswered i := by
  refine ⟨_, he, .bind (fun s => ?_) hk⟩
  rcases hb : s.binding with _ | b
  · rw [requireBinding_unbound hb]
    exact .raised .unbound s
  · rw [requireBinding_bound hb]
    exact .done b (List.Subset.refl s.bus)

/-- R200: the check before the initialisation and the binding after it issue no transaction. -/
theorem ExecStopsOnlyUnanswered.bind (v : Variant) (a : DevAddr) : ExecStopsOnlyUnanswered (.bind v a) := by
  have hcommit : Cmd.StopsOnlyUnanswered (commitBinding v a) := fun s => .done () (List.Subset.refl s.bus)
  refine ⟨_, fun _ => rfl, .bind (fun s => ?_) fun _ => (constructionInit_stopsOnlyUnanswered v a).bind fun _ =>
    hcommit.bind fun _ => .ret _⟩
  rcases hl : s.life with _ | _
  · rw [requireUnbound_unbound hl]
    exact .done () (List.Subset.refl s.bus)
  · rw [requireUnbound_ready hl]
    exact .raised .rebind s

/-- R305: it is so for every instruction. -/
theorem exec_stopsOnlyUnanswered (i : Instr) : ExecStopsOnlyUnanswered i := by
  cases i with
  | bcdDec | bcdEnc | flagTest | flagMerge | dtDec | dtEnc | almDec | almEnc | freqDec | freqEnc | map =>
    exact .pure rfl
  | bind v a => exact .bind v a
  | dtRead =>
    exact .bound _ (fun _ => rfl) fun b =>
      (memRead_stopsOnlyUnanswered b.addr (Nat.le_add_left 1 6) (dateTimeBase_add_le b.variant)).of_quiet_rest
        fun _ => .bind (decodeDateTime_madeOf ..) fun _ => .ret _
  | dtWrite dt =>
    exact .bound _ (fun _ => rfl) fun b => .encodeDateTime_bind dt fun _ hlen =>
      (dateTimePreStep_stopsOnlyUnanswered b).bind fun _ =>
        (memWrite_dateTime_stopsOnlyUnanswered b hlen).of_quiet_rest fun _ => .ret _
  | flagGet acc =>
    exact .bound _ (fun _ => rfl) fun b => .of_quiet_first (resolve_madeOf ..) fun e =>
      (readByte_stopsOnlyUnanswered b.addr e.reg).of_quiet_rest fun _ => .ret _
  | flagSet acc v =>
    exact .bound _ (fun _ => rfl) fun b => .of_quiet_first (resolve_madeOf ..) fun e =>
      .of_quiet_first (requireWritable_madeOf e) fun _ =>
        (rmwByte_stopsOnlyUnanswered b.addr e.reg _).of_quiet_rest fun _ => .ret _
  | freqGet =>
    exact .bound _ (fun _ => rfl) fun b => .of_quiet_first .readParams fun _ =>
      (readByte_stopsOnlyUnanswered b.addr _).of_quiet_rest fun _ => .bind (decodeFreq_madeOf ..) fun _ => .ret _
  | freqSet hz =>
    exact .bound _ (fun _ => rfl) fun b => .of_quiet_first .readParams fun p =>
      .of_quiet_first (requireFreq_madeOf ..) fun pat =>
        (writeFreq_stopsOnlyUnanswered b _ pat).of_quiet_rest fun _ => .ret _
  | memRead a =>
    exact .bound _ (fun _ => rfl) fun b => .of_quiet_first (requireCap_madeOf _) fun _ =>
      .of_quiet_first (requireRange_madeOf _) fun _ =>
        (readByte_stopsOnlyUnanswered b.addr _).of_quiet_rest fun _ => .ret _
  | memWrite a bs =>
    exact .bound _ (fun _ => rfl) fun b => .of_quiet_first (requireCap_madeOf _) fun _ =>
      memWriteInRange_stopsOnlyUnanswered b.addr a bs
  | almRead =>
    exact .bound _ (fun _ => rfl) fun b => .of_quiet_first (requireCap_madeOf _) fun _ =>
      (memRead_stopsOnlyUnanswered b.addr (Nat.le_add_left 1 3) (by decide)).of_quiet_rest
        fun _ => .bind (decodeAlarm_madeOf ..) fun _ => .ret _
  | almWrite al =>
    exact .bound _ (fun _ => rfl) fun b => .of_quiet_first (requireCap_madeOf _) fun _ =>
      .encodeAlarm_bind al fun _ hlen =>
        (memWrite_alarm_stopsOnlyUnanswered b.addr hlen).of_quiet_rest fun _ => .ret _
  | reset =>
    exact .bound _ (fun _ => rfl) fun b => .of_quiet_first (requireCap_madeOf _) fun _ =>
      (memWrite_singleton_stopsOnlyUnanswered b.addr control1 softwareResetPattern).bind fun _ =>
        (rmwByte_stopsOnlyUnanswered b.addr control3 _).of_quiet_rest fun _ => .ret _
  | rflagGet r m =>
    exact .bound _ (fun _ => rfl) fun b => (readByte_stopsOnlyUnanswered b.addr r).of_quiet_rest fun _ => .ret _
  | rflagSet r m v =>
    exact .bound _ (fun _ => rfl) fun b => (rmwByte_stopsOnlyUnanswered b.addr r _).of_quiet_rest fun _ => .ret _

/-! ### How commands can stop -/

/-- A command that faults was stopped. -/
theorem Cmd.run_fault {c : Cmd Value} {s : State} {f : Fault} (h : Cmd.run c s = .fault f) : c s = .stopped f := by
  rcases hc : c s with ⟨v, u⟩ | ⟨e, u⟩ | f'
  · rw [Cmd.run_done hc] at h
    cases h
  · rw [Cmd.run_raised hc] at h
    cases h
  · rw [Cmd.run_stopped hc] at h
    rw [Host.Outcome.fault.inj h]

theorem Cmd.run_ne_refused (c : Cmd Value) (s : State) (r : Refusal) : Cmd.run c s ≠ .refused r := by
  unfold Cmd.run
  split <;> nofun

/-- R305: a command that faults waits at a transaction that is never answered. -/
theorem exec_fault {i : Instr} {s : State} {f : Fault} (h : exec i s = .fault f) :
    f = .transportNeverAnswers ∧ s.HasUnanswered := by
  obtain ⟨c, he, hc⟩ := exec_stopsOnlyUnanswered i
  have hstop : c s = .stopped f := Cmd.run_fault (he s ▸ h)
  have hout := hc s
  rw [hstop] at hout
  cases hout with
  | stopped hs => exact ⟨rfl, hs⟩

theorem exec_ne_refused (i : Instr) (s : State) (r : Refusal) : exec i s ≠ .refused r := by
  obtain ⟨c, he, -⟩ := exec_stopsOnlyUnanswered i
  rw [he]
  exact Cmd.run_ne_refused c s r

/-- Settles O56: of the three outcomes a command that faults has an unanswered transaction in its schedule, none
refuses, and one that gives a next state has responded. -/
theorem everyCommandEndsIfTheTransportAnswers : Obligations.EveryCommandEndsIfTheTransportAnswers := by
  refine ⟨fun i s hanswers => ?_, fun i s f h => exec_fault h, exec_ne_refused⟩
  rcases hout : exec i s with t | f | r
  · obtain ⟨r, hr⟩ := exec_responds hout
    exact ⟨t, r, rfl, hr⟩
  · obtain ⟨-, e, he, hnever⟩ := exec_fault hout
    exact absurd hnever (hanswers e he)
  · exact absurd hout (exec_ne_refused i s r)

end Sys2Proof.Machine
end
